-- ==== Sys2Proof/Word.lean ====
section
/-! DEFINITION. The word types of the core (10_state.md R20; 00_scope.md R7). -/

namespace Sys2Proof

/-- A general register's 64-bit pattern (10_state.md R20, XLEN = 64). -/
abbrev Word := BitVec 64

/-- One byte of PROG or of the stack. -/
abbrev Byte := BitVec 8

/-- A register nibble of byte 1 of an instruction word: it can hold 0 to 15 (30_encoding.md R82). -/
abbrev RegId := BitVec 4

/-- A helper id: the 32-bit immediate of `call` (44_jump.md R276). -/
abbrev HelperId := BitVec 32

end Sys2Proof
end

