-- ==== Sys2Proof/Config.lean ====
section
/-! DEFINITION. The parameters of the core (00_scope.md R5), the helper table among them, and the free values of its helpers. -/

namespace Sys2Proof

/-! ## HELPERS, the table of helper effects, as plain data (44_jump.md R276; log 6) -/

/-- What a helper is given of the register file: x[1] to x[5] (44_jump.md R276). -/
structure HelperArgs where
  a1 : Word
  a2 : Word
  a3 : Word
  a4 : Word
  a5 : Word
  deriving DecidableEq, Repr

/-- One of the arguments. -/
inductive HelperArg where
  | a1 | a2 | a3 | a4 | a5
  deriving DecidableEq, Repr

/-- The operators of `HelperExpr`; comparisons give 1 or 0. -/
inductive HelperOp where
  | add | sub | mul | udiv | umod | and | or | xor | shl | lshr | ashr | eq | ult | slt
  deriving DecidableEq, Repr

/-- A 64-bit value that an outcome of a helper is made of, over what the helper is given and over free words. -/
inductive HelperExpr where
  | const (v : Word)
  /-- An argument. -/
  | arg (a : HelperArg)
  /-- The stack byte at an address, as it was before the call; 0 at 512 and above. -/
  | byte (addr : HelperExpr)
  /-- The `k`-th free word of the call: any value. -/
  | free (k : Nat)
  | op (o : HelperOp) (l r : HelperExpr)
  /-- `t` where `c` is not 0, else `e`. -/
  | ite (c t e : HelperExpr)
  deriving DecidableEq, Repr

/-- The effect of a helper, a relation between what it is given and its outcomes: the outcomes are those that some
values of its free words and free bytes make (44_jump.md R276). -/
structure HelperEffect where
  /-- x[0] to x[5] after the call: `r0, c1, ..., c5`. -/
  regs       : Vector HelperExpr 6
  /-- Whether a byte that `stores` does not name keeps its value (20_memory.md R68); if not, it is free. -/
  keepsStack : Bool
  /-- The stack bytes written, in order, as (address, value): the low byte of the value; at 512 and above, nothing. -/
  stores     : List (HelperExpr × HelperExpr)
  deriving DecidableEq, Repr

/-- The effect that says nothing: every register it may write and every stack byte is any value
(93_implementation_defined.md U1, U2). -/
def HelperEffect.unspecified : HelperEffect where
  regs       := #v[.free 0, .free 1, .free 2, .free 3, .free 4, .free 5]
  keepsStack := false
  stores     := []

/-- HELPERS, a partial map from an id to an effect: the first entry of an id counts (44_jump.md R276). -/
abbrev HelperTable := List (HelperId × HelperEffect)

/-- One run of a helper: its id, what it is given, and the number of the draw, so that two runs on the same input may
differ. -/
structure HelperCall where
  id    : HelperId
  args  : HelperArgs
  stack : List (Nat × Byte)
  draw  : Nat
  deriving DecidableEq, Repr

/-! ## Parameters and free values -/

/-- STACK_SIZE, 512 bytes (00_scope.md R5, 20_memory.md R52). -/
abbrev Config.stackSize : Nat := 512

/-- NUM_REGS, R0 to R10 (00_scope.md R5, 10_state.md R20). -/
abbrev Config.numRegs : Nat := 11

/-- What a stack byte reads as when the memory lists no byte for it.
DESIGN CHOICE (log 3): the spec makes the stack's reset contents an input (R39, R381). Unsafe. -/
def Config.unlistedByte : Byte := 0#8

/-- FREE VALUE (log 7): the `k`-th free word of a helper call. It has no body: nothing constrains it. -/
opaque Config.helperWord (call : HelperCall) (k : Nat) : Word

/-- FREE VALUE (log 7): the free byte of a helper call for the stack address `addr`. It has no body. -/
opaque Config.helperByte (call : HelperCall) (addr : Nat) : Byte

end Sys2Proof
end

