-- ==== Sys2Proof/Syntax.lean ====
section
/-! DEFINITION. The instructions of the core: one constructor per row of opcode_table.json (30_encoding.md R94, R98). -/

namespace Sys2Proof

/-- BYTE_ORDER (10_state.md R32, 20_memory.md R50). -/
inductive ByteOrder where
  | le
  | be
  deriving DecidableEq, Repr

/-- The five fault kinds of the core (60_exceptions.md R340). They are terminal, and their entry is a next state
(`State.takeFault`), never a stop of the model. -/
inductive FaultKind where
  | decodeFault
  | invalidRegister
  | frameRegisterWriteViolation
  | memoryBoundsFault
  | unsupportedOpcode
  deriving DecidableEq, Repr

/-- The fields of the first word (40_decoder.md R112, R116). Every instruction carries all of them, the ones its
format does not use too (30_encoding.md R89, R96), so that no bit of an encoding is dropped (R99). -/
structure Fields where
  /-- The dst nibble, 0 to 15. -/
  dst : RegId
  /-- The src nibble, 0 to 15. -/
  src : RegId
  /-- The signed 16-bit offset. -/
  off : BitVec 16
  /-- The signed 32-bit immediate. -/
  imm : BitVec 32
  deriving DecidableEq, Repr

/-- The instructions. A `K` form takes the immediate as second operand, an `X` form the src register
(30_encoding.md R85). `lddw`, `le` and `be` carry the immediate of the continuation word besides; for a one-word
`le` or `be` it is 0. -/
inductive Instr where
  /-- `add64`, opcode 0x0f, format ALU_K: 41_alu64.md R134. -/
  | add64K (f : Fields)
  /-- `add64`, opcode 0x07, format ALU_X: 41_alu64.md R135. -/
  | add64X (f : Fields)
  /-- `sub64`, opcode 0x1f, format ALU_K: 41_alu64.md R136. -/
  | sub64K (f : Fields)
  /-- `sub64`, opcode 0x17, format ALU_X: 41_alu64.md R137. -/
  | sub64X (f : Fields)
  /-- `mul64`, opcode 0x2f, format ALU_K: 41_alu64.md R138. -/
  | mul64K (f : Fields)
  /-- `mul64`, opcode 0x27, format ALU_X: 41_alu64.md R139. -/
  | mul64X (f : Fields)
  /-- `div64`, opcode 0x3f, format ALU_K: 41_alu64.md R140. -/
  | div64K (f : Fields)
  /-- `div64`, opcode 0x37, format ALU_X: 41_alu64.md R141. -/
  | div64X (f : Fields)
  /-- `or64`, opcode 0x4f, format ALU_K: 41_alu64.md R142. -/
  | or64K (f : Fields)
  /-- `or64`, opcode 0x47, format ALU_X: 41_alu64.md R143. -/
  | or64X (f : Fields)
  /-- `and64`, opcode 0x5f, format ALU_K: 41_alu64.md R144. -/
  | and64K (f : Fields)
  /-- `and64`, opcode 0x57, format ALU_X: 41_alu64.md R145. -/
  | and64X (f : Fields)
  /-- `lsh64`, opcode 0x6f, format ALU_K: 41_alu64.md R146. -/
  | lsh64K (f : Fields)
  /-- `lsh64`, opcode 0x67, format ALU_X: 41_alu64.md R147. -/
  | lsh64X (f : Fields)
  /-- `rsh64`, opcode 0x7f, format ALU_K: 41_alu64.md R148. -/
  | rsh64K (f : Fields)
  /-- `rsh64`, opcode 0x77, format ALU_X: 41_alu64.md R149. -/
  | rsh64X (f : Fields)
  /-- `mod64`, opcode 0x9f, format ALU_K: 41_alu64.md R151. -/
  | mod64K (f : Fields)
  /-- `mod64`, opcode 0x97, format ALU_X: 41_alu64.md R152. -/
  | mod64X (f : Fields)
  /-- `xor64`, opcode 0xaf, format ALU_K: 41_alu64.md R153. -/
  | xor64K (f : Fields)
  /-- `xor64`, opcode 0xa7, format ALU_X: 41_alu64.md R154. -/
  | xor64X (f : Fields)
  /-- `mov64`, opcode 0xbf, format ALU_K: 41_alu64.md R155. -/
  | mov64K (f : Fields)
  /-- `mov64`, opcode 0xb7, format ALU_X: 41_alu64.md R156. -/
  | mov64X (f : Fields)
  /-- `arsh64`, opcode 0xcf, format ALU_K: 41_alu64.md R157. -/
  | arsh64K (f : Fields)
  /-- `arsh64`, opcode 0xc7, format ALU_X: 41_alu64.md R158. -/
  | arsh64X (f : Fields)
  /-- `neg64`, opcode 0x87, format ALU_U: 41_alu64.md R150. -/
  | neg64 (f : Fields)
  /-- `add32`, opcode 0x0c, format ALU_K: 42_alu32.md R171. -/
  | add32K (f : Fields)
  /-- `add32`, opcode 0x04, format ALU_X: 42_alu32.md R172. -/
  | add32X (f : Fields)
  /-- `sub32`, opcode 0x1c, format ALU_K: 42_alu32.md R173. -/
  | sub32K (f : Fields)
  /-- `sub32`, opcode 0x14, format ALU_X: 42_alu32.md R174. -/
  | sub32X (f : Fields)
  /-- `mul32`, opcode 0x2c, format ALU_K: 42_alu32.md R175. -/
  | mul32K (f : Fields)
  /-- `mul32`, opcode 0x24, format ALU_X: 42_alu32.md R176. -/
  | mul32X (f : Fields)
  /-- `div32`, opcode 0x3c, format ALU_K: 42_alu32.md R177. -/
  | div32K (f : Fields)
  /-- `div32`, opcode 0x34, format ALU_X: 42_alu32.md R178. -/
  | div32X (f : Fields)
  /-- `or32`, opcode 0x4c, format ALU_K: 42_alu32.md R179. -/
  | or32K (f : Fields)
  /-- `or32`, opcode 0x44, format ALU_X: 42_alu32.md R180. -/
  | or32X (f : Fields)
  /-- `and32`, opcode 0x5c, format ALU_K: 42_alu32.md R181. -/
  | and32K (f : Fields)
  /-- `and32`, opcode 0x54, format ALU_X: 42_alu32.md R182. -/
  | and32X (f : Fields)
  /-- `lsh32`, opcode 0x6c, format ALU_K: 42_alu32.md R183. -/
  | lsh32K (f : Fields)
  /-- `lsh32`, opcode 0x64, format ALU_X: 42_alu32.md R184. -/
  | lsh32X (f : Fields)
  /-- `rsh32`, opcode 0x7c, format ALU_K: 42_alu32.md R185. -/
  | rsh32K (f : Fields)
  /-- `rsh32`, opcode 0x74, format ALU_X: 42_alu32.md R186. -/
  | rsh32X (f : Fields)
  /-- `mod32`, opcode 0x9c, format ALU_K: 42_alu32.md R188. -/
  | mod32K (f : Fields)
  /-- `mod32`, opcode 0x94, format ALU_X: 42_alu32.md R189. -/
  | mod32X (f : Fields)
  /-- `xor32`, opcode 0xac, format ALU_K: 42_alu32.md R190. -/
  | xor32K (f : Fields)
  /-- `xor32`, opcode 0xa4, format ALU_X: 42_alu32.md R191. -/
  | xor32X (f : Fields)
  /-- `mov32`, opcode 0xbc, format ALU_K: 42_alu32.md R192. -/
  | mov32K (f : Fields)
  /-- `mov32`, opcode 0xb4, format ALU_X: 42_alu32.md R193. -/
  | mov32X (f : Fields)
  /-- `arsh32`, opcode 0xcc, format ALU_K: 42_alu32.md R194. -/
  | arsh32K (f : Fields)
  /-- `arsh32`, opcode 0xc4, format ALU_X: 42_alu32.md R195. -/
  | arsh32X (f : Fields)
  /-- `neg32`, opcode 0x84, format ALU_U: 42_alu32.md R187. -/
  | neg32 (f : Fields)
  /-- `le`, opcode 0xd4, format END: 42_alu32.md R197. -/
  | le (f : Fields) (cont : BitVec 32)
  /-- `be`, opcode 0xdc, format END: 42_alu32.md R198. -/
  | be (f : Fields) (cont : BitVec 32)
  /-- `lddw`, opcode 0x18, format LDDW: 43_load_store.md R211. -/
  | lddw (f : Fields) (cont : BitVec 32)
  /-- `ldxw`, opcode 0x61, format LDX: 43_load_store.md R212. -/
  | ldxw (f : Fields)
  /-- `ldxh`, opcode 0x69, format LDX: 43_load_store.md R213. -/
  | ldxh (f : Fields)
  /-- `ldxb`, opcode 0x71, format LDX: 43_load_store.md R214. -/
  | ldxb (f : Fields)
  /-- `ldxdw`, opcode 0x79, format LDX: 43_load_store.md R215. -/
  | ldxdw (f : Fields)
  /-- `stw`, opcode 0x62, format ST: 43_load_store.md R216. -/
  | stw (f : Fields)
  /-- `sth`, opcode 0x6a, format ST: 43_load_store.md R217. -/
  | sth (f : Fields)
  /-- `stb`, opcode 0x72, format ST: 43_load_store.md R218. -/
  | stb (f : Fields)
  /-- `stdw`, opcode 0x7a, format ST: 43_load_store.md R219. -/
  | stdw (f : Fields)
  /-- `stxw`, opcode 0x63, format STX: 43_load_store.md R220. -/
  | stxw (f : Fields)
  /-- `stxh`, opcode 0x6b, format STX: 43_load_store.md R221. -/
  | stxh (f : Fields)
  /-- `stxb`, opcode 0x73, format STX: 43_load_store.md R222. -/
  | stxb (f : Fields)
  /-- `stxdw`, opcode 0x7b, format STX: 43_load_store.md R223. -/
  | stxdw (f : Fields)
  /-- `ldabsw`, opcode 0x20, format LDABS: 43_load_store.md R224. -/
  | ldabsw (f : Fields)
  /-- `ldabsh`, opcode 0x28, format LDABS: 43_load_store.md R225. -/
  | ldabsh (f : Fields)
  /-- `ldabsb`, opcode 0x30, format LDABS: 43_load_store.md R226. -/
  | ldabsb (f : Fields)
  /-- `ldindw`, opcode 0x40, format LDIND: 43_load_store.md R227. -/
  | ldindw (f : Fields)
  /-- `ldindh`, opcode 0x48, format LDIND: 43_load_store.md R228. -/
  | ldindh (f : Fields)
  /-- `ldindb`, opcode 0x50, format LDIND: 43_load_store.md R229. -/
  | ldindb (f : Fields)
  /-- `xaddw`, opcode 0xc3, format XADD: 43_load_store.md R230. -/
  | xaddw (f : Fields)
  /-- `xadddw`, opcode 0xdb, format XADD: 43_load_store.md R231. -/
  | xadddw (f : Fields)
  /-- `ja`, opcode 0x05, format JA: 44_jump.md R253. -/
  | ja (f : Fields)
  /-- `jeq`, opcode 0x1d, format JCC_K: 44_jump.md R254. -/
  | jeqK (f : Fields)
  /-- `jeq`, opcode 0x15, format JCC_X: 44_jump.md R255. -/
  | jeqX (f : Fields)
  /-- `jgt`, opcode 0x2d, format JCC_K: 44_jump.md R256. -/
  | jgtK (f : Fields)
  /-- `jgt`, opcode 0x25, format JCC_X: 44_jump.md R257. -/
  | jgtX (f : Fields)
  /-- `jge`, opcode 0x3d, format JCC_K: 44_jump.md R258. -/
  | jgeK (f : Fields)
  /-- `jge`, opcode 0x35, format JCC_X: 44_jump.md R259. -/
  | jgeX (f : Fields)
  /-- `jset`, opcode 0x4d, format JCC_K: 44_jump.md R260. -/
  | jsetK (f : Fields)
  /-- `jset`, opcode 0x45, format JCC_X: 44_jump.md R261. -/
  | jsetX (f : Fields)
  /-- `jne`, opcode 0x5d, format JCC_K: 44_jump.md R262. -/
  | jneK (f : Fields)
  /-- `jne`, opcode 0x55, format JCC_X: 44_jump.md R263. -/
  | jneX (f : Fields)
  /-- `jsgt`, opcode 0x6d, format JCC_K: 44_jump.md R264. -/
  | jsgtK (f : Fields)
  /-- `jsgt`, opcode 0x65, format JCC_X: 44_jump.md R265. -/
  | jsgtX (f : Fields)
  /-- `jsge`, opcode 0x7d, format JCC_K: 44_jump.md R266. -/
  | jsgeK (f : Fields)
  /-- `jsge`, opcode 0x75, format JCC_X: 44_jump.md R267. -/
  | jsgeX (f : Fields)
  /-- `jlt`, opcode 0xad, format JCC_K: 44_jump.md R268. -/
  | jltK (f : Fields)
  /-- `jlt`, opcode 0xa5, format JCC_X: 44_jump.md R269. -/
  | jltX (f : Fields)
  /-- `jle`, opcode 0xbd, format JCC_K: 44_jump.md R270. -/
  | jleK (f : Fields)
  /-- `jle`, opcode 0xb5, format JCC_X: 44_jump.md R271. -/
  | jleX (f : Fields)
  /-- `jslt`, opcode 0xcd, format JCC_K: 44_jump.md R272. -/
  | jsltK (f : Fields)
  /-- `jslt`, opcode 0xc5, format JCC_X: 44_jump.md R273. -/
  | jsltX (f : Fields)
  /-- `jsle`, opcode 0xdd, format JCC_K: 44_jump.md R274. -/
  | jsleK (f : Fields)
  /-- `jsle`, opcode 0xd5, format JCC_X: 44_jump.md R275. -/
  | jsleX (f : Fields)
  /-- `jeq32`, opcode 0x1e, format JCC_K: 44_jump.md R278. -/
  | jeq32K (f : Fields)
  /-- `jeq32`, opcode 0x16, format JCC_X: 44_jump.md R279. -/
  | jeq32X (f : Fields)
  /-- `jgt32`, opcode 0x2e, format JCC_K: 44_jump.md R280. -/
  | jgt32K (f : Fields)
  /-- `jgt32`, opcode 0x26, format JCC_X: 44_jump.md R281. -/
  | jgt32X (f : Fields)
  /-- `jge32`, opcode 0x3e, format JCC_K: 44_jump.md R282. -/
  | jge32K (f : Fields)
  /-- `jge32`, opcode 0x36, format JCC_X: 44_jump.md R283. -/
  | jge32X (f : Fields)
  /-- `jset32`, opcode 0x4e, format JCC_K: 44_jump.md R284. -/
  | jset32K (f : Fields)
  /-- `jset32`, opcode 0x46, format JCC_X: 44_jump.md R285. -/
  | jset32X (f : Fields)
  /-- `jne32`, opcode 0x5e, format JCC_K: 44_jump.md R286. -/
  | jne32K (f : Fields)
  /-- `jne32`, opcode 0x56, format JCC_X: 44_jump.md R287. -/
  | jne32X (f : Fields)
  /-- `jsgt32`, opcode 0x6e, format JCC_K: 44_jump.md R288. -/
  | jsgt32K (f : Fields)
  /-- `jsgt32`, opcode 0x66, format JCC_X: 44_jump.md R289. -/
  | jsgt32X (f : Fields)
  /-- `jsge32`, opcode 0x7e, format JCC_K: 44_jump.md R290. -/
  | jsge32K (f : Fields)
  /-- `jsge32`, opcode 0x76, format JCC_X: 44_jump.md R291. -/
  | jsge32X (f : Fields)
  /-- `jlt32`, opcode 0xae, format JCC_K: 44_jump.md R292. -/
  | jlt32K (f : Fields)
  /-- `jlt32`, opcode 0xa6, format JCC_X: 44_jump.md R293. -/
  | jlt32X (f : Fields)
  /-- `jle32`, opcode 0xbe, format JCC_K: 44_jump.md R294. -/
  | jle32K (f : Fields)
  /-- `jle32`, opcode 0xb6, format JCC_X: 44_jump.md R295. -/
  | jle32X (f : Fields)
  /-- `jslt32`, opcode 0xce, format JCC_K: 44_jump.md R296. -/
  | jslt32K (f : Fields)
  /-- `jslt32`, opcode 0xc6, format JCC_X: 44_jump.md R297. -/
  | jslt32X (f : Fields)
  /-- `jsle32`, opcode 0xde, format JCC_K: 44_jump.md R298. -/
  | jsle32K (f : Fields)
  /-- `jsle32`, opcode 0xd6, format JCC_X: 44_jump.md R299. -/
  | jsle32X (f : Fields)
  /-- `call`, opcode 0x85, format CALL: 44_jump.md R276. -/
  | call (f : Fields)
  /-- `exit`, opcode 0x95, format EXIT: 44_jump.md R277. -/
  | exit (f : Fields)
  deriving DecidableEq, Repr

/-- The formats of 30_encoding.md R89. -/
inductive Format where
  | aluK | aluX | aluU | swap | lddw | ldx | st | stx | ldabs | ldind | xadd | ja | jccK | jccX | call | exit
  deriving DecidableEq, Repr

/-- The format of each instruction (30_encoding.md R89, opcode_table.json). -/
def Instr.format : Instr → Format
  | .add64K _ | .sub64K _ | .mul64K _ | .div64K _ | .or64K _ | .and64K _ | .lsh64K _ | .rsh64K _ | .mod64K _
  | .xor64K _ | .mov64K _ | .arsh64K _ | .add32K _ | .sub32K _ | .mul32K _ | .div32K _ | .or32K _ | .and32K _
  | .lsh32K _ | .rsh32K _ | .mod32K _ | .xor32K _ | .mov32K _ | .arsh32K _ => .aluK
  | .add64X _ | .sub64X _ | .mul64X _ | .div64X _ | .or64X _ | .and64X _ | .lsh64X _ | .rsh64X _ | .mod64X _
  | .xor64X _ | .mov64X _ | .arsh64X _ | .add32X _ | .sub32X _ | .mul32X _ | .div32X _ | .or32X _ | .and32X _
  | .lsh32X _ | .rsh32X _ | .mod32X _ | .xor32X _ | .mov32X _ | .arsh32X _ => .aluX
  | .neg64 _ | .neg32 _ => .aluU
  | .le _ _ | .be _ _ => .swap
  | .lddw _ _ => .lddw
  | .ldxw _ | .ldxh _ | .ldxb _ | .ldxdw _ => .ldx
  | .stw _ | .sth _ | .stb _ | .stdw _ => .st
  | .stxw _ | .stxh _ | .stxb _ | .stxdw _ => .stx
  | .ldabsw _ | .ldabsh _ | .ldabsb _ => .ldabs
  | .ldindw _ | .ldindh _ | .ldindb _ => .ldind
  | .xaddw _ | .xadddw _ => .xadd
  | .ja _ => .ja
  | .jeqK _ | .jgtK _ | .jgeK _ | .jsetK _ | .jneK _ | .jsgtK _ | .jsgeK _ | .jltK _ | .jleK _ | .jsltK _ | .jsleK _
  | .jeq32K _ | .jgt32K _ | .jge32K _ | .jset32K _ | .jne32K _ | .jsgt32K _ | .jsge32K _ | .jlt32K _ | .jle32K _
  | .jslt32K _ | .jsle32K _ => .jccK
  | .jeqX _ | .jgtX _ | .jgeX _ | .jsetX _ | .jneX _ | .jsgtX _ | .jsgeX _ | .jltX _ | .jleX _ | .jsltX _ | .jsleX _
  | .jeq32X _ | .jgt32X _ | .jge32X _ | .jset32X _ | .jne32X _ | .jsgt32X _ | .jsge32X _ | .jlt32X _ | .jle32X _
  | .jslt32X _ | .jsle32X _ => .jccX
  | .call _ => .call
  | .exit _ => .exit

/-- The fields of the first word of an instruction. -/
def Instr.fields : Instr → Fields
  | .add64K f | .add64X f | .sub64K f | .sub64X f | .mul64K f | .mul64X f | .div64K f | .div64X f | .or64K f
  | .or64X f | .and64K f | .and64X f | .lsh64K f | .lsh64X f | .rsh64K f | .rsh64X f | .mod64K f | .mod64X f
  | .xor64K f | .xor64X f | .mov64K f | .mov64X f | .arsh64K f | .arsh64X f | .neg64 f | .add32K f | .add32X f
  | .sub32K f | .sub32X f | .mul32K f | .mul32X f | .div32K f | .div32X f | .or32K f | .or32X f | .and32K f
  | .and32X f | .lsh32K f | .lsh32X f | .rsh32K f | .rsh32X f | .mod32K f | .mod32X f | .xor32K f | .xor32X f
  | .mov32K f | .mov32X f | .arsh32K f | .arsh32X f | .neg32 f | .le f _ | .be f _ | .lddw f _ | .ldxw f | .ldxh f
  | .ldxb f | .ldxdw f | .stw f | .sth f | .stb f | .stdw f | .stxw f | .stxh f | .stxb f | .stxdw f | .ldabsw f
  | .ldabsh f | .ldabsb f | .ldindw f | .ldindh f | .ldindb f | .xaddw f | .xadddw f | .ja f | .jeqK f | .jeqX f
  | .jgtK f | .jgtX f | .jgeK f | .jgeX f | .jsetK f | .jsetX f | .jneK f | .jneX f | .jsgtK f | .jsgtX f | .jsgeK f
  | .jsgeX f | .jltK f | .jltX f | .jleK f | .jleX f | .jsltK f | .jsltX f | .jsleK f | .jsleX f | .jeq32K f
  | .jeq32X f | .jgt32K f | .jgt32X f | .jge32K f | .jge32X f | .jset32K f | .jset32X f | .jne32K f | .jne32X f
  | .jsgt32K f | .jsgt32X f | .jsge32K f | .jsge32X f | .jlt32K f | .jlt32X f | .jle32K f | .jle32X f | .jslt32K f
  | .jslt32X f | .jsle32K f | .jsle32X f | .call f | .exit f => f

/-- The continuation word's immediate; 0 where the instruction has no continuation word. -/
def Instr.cont : Instr → BitVec 32
  | .lddw _ c | .le _ c | .be _ c => c
  | .add64K _ | .add64X _ | .sub64K _ | .sub64X _ | .mul64K _ | .mul64X _ | .div64K _ | .div64X _ | .or64K _
  | .or64X _ | .and64K _ | .and64X _ | .lsh64K _ | .lsh64X _ | .rsh64K _ | .rsh64X _ | .mod64K _ | .mod64X _
  | .xor64K _ | .xor64X _ | .mov64K _ | .mov64X _ | .arsh64K _ | .arsh64X _ | .neg64 _ | .add32K _ | .add32X _
  | .sub32K _ | .sub32X _ | .mul32K _ | .mul32X _ | .div32K _ | .div32X _ | .or32K _ | .or32X _ | .and32K _
  | .and32X _ | .lsh32K _ | .lsh32X _ | .rsh32K _ | .rsh32X _ | .mod32K _ | .mod32X _ | .xor32K _ | .xor32X _
  | .mov32K _ | .mov32X _ | .arsh32K _ | .arsh32X _ | .neg32 _ | .ldxw _ | .ldxh _ | .ldxb _ | .ldxdw _ | .stw _
  | .sth _ | .stb _ | .stdw _ | .stxw _ | .stxh _ | .stxb _ | .stxdw _ | .ldabsw _ | .ldabsh _ | .ldabsb _
  | .ldindw _ | .ldindh _ | .ldindb _ | .xaddw _ | .xadddw _ | .ja _ | .jeqK _ | .jeqX _ | .jgtK _ | .jgtX _
  | .jgeK _ | .jgeX _ | .jsetK _ | .jsetX _ | .jneK _ | .jneX _ | .jsgtK _ | .jsgtX _ | .jsgeK _ | .jsgeX _
  | .jltK _ | .jltX _ | .jleK _ | .jleX _ | .jsltK _ | .jsltX _ | .jsleK _ | .jsleX _ | .jeq32K _ | .jeq32X _
  | .jgt32K _ | .jgt32X _ | .jge32K _ | .jge32X _ | .jset32K _ | .jset32X _ | .jne32K _ | .jne32X _ | .jsgt32K _
  | .jsgt32X _ | .jsge32K _ | .jsge32X _ | .jlt32K _ | .jlt32X _ | .jle32K _ | .jle32X _ | .jslt32K _ | .jslt32X _
  | .jsle32K _ | .jsle32X _ | .call _ | .exit _ => 0#32

end Sys2Proof
end

