-- ==== Sys2Proof/Decode.lean ====
section
/-! DEFINITION. Bytes and integers (00_scope.md R8), the decoder (40_decoder.md R110 to R122) and the encoder
(30_encoding.md R99). -/

namespace Sys2Proof

/-! ## Byte sequences -/

/-- `compose_LE`: the first byte is the least significant (00_scope.md R8). -/
def composeLE : List Byte → Nat
  | [] => 0
  | b :: bs => b.toNat + 256 * composeLE bs

/-- `compose` in the given byte order; big-endian reads the first byte as the most significant (00_scope.md R8). -/
def compose (o : ByteOrder) (bs : List Byte) : Nat :=
  match o with
  | .le => composeLE bs
  | .be => composeLE bs.reverse

/-- `split_LE`: the `n` low bytes of `v`, least significant first (00_scope.md R8). -/
def splitLE : Nat → Nat → List Byte
  | 0, _ => []
  | n + 1, v => BitVec.ofNat 8 v :: splitLE n (v / 256)

/-- `split`: the `n` bytes whose `compose` is `v` truncated to `8n` bits (00_scope.md R8). -/
def split (o : ByteOrder) (n v : Nat) : List Byte :=
  match o with
  | .le => splitLE n v
  | .be => (splitLE n v).reverse

/-! ## Field extraction -/

/-- The dst nibble of byte 1: the low nibble with LE, the high one with BE (30_encoding.md R82). -/
def dstNibble (o : ByteOrder) (b1 : Byte) : RegId :=
  match o with
  | .le => b1.extractLsb' 0 4
  | .be => b1.extractLsb' 4 4

/-- The src nibble of byte 1 (30_encoding.md R82). -/
def srcNibble (o : ByteOrder) (b1 : Byte) : RegId :=
  match o with
  | .le => b1.extractLsb' 4 4
  | .be => b1.extractLsb' 0 4

/-- The fields of a word's bytes 1 to 7 (40_decoder.md R112; 30_encoding.md R82, R83). -/
def Fields.ofBytes (o : ByteOrder) (b1 b2 b3 b4 b5 b6 b7 : Byte) : Fields where
  dst := dstNibble o b1
  src := srcNibble o b1
  off := BitVec.ofNat 16 (compose o [b2, b3])
  imm := BitVec.ofNat 32 (compose o [b4, b5, b6, b7])

/-- The wide test on the first word (40_decoder.md R113): `lddw`, or a byte swap whose immediate, read as signed, is
above 32. -/
def wideWord (b0 : Byte) (imm : BitVec 32) : Bool :=
  b0 == 0x18#8 || ((b0 == 0xd4#8 || b0 == 0xdc#8) && decide (32 < imm.toInt))

/-! ## The opcode byte -/

/-- SRC_IMM_BIT: the value of opcode bit 3 that selects the immediate (30_encoding.md R85, 90_conflicts.md C10). -/
def Config.srcImmBit : BitVec 1 := 1#1

/-- The choice of form by the source bit, opcode bit 3 (30_encoding.md R85). -/
def bySource {α : Type} (bit : BitVec 1) (k x : α) : α := if bit = Config.srcImmBit then k else x

/-- The instructions without a source operand exist with bit 3 = 0 only (30_encoding.md R86, R90). -/
def onlyBitZero {α : Type} (bit : BitVec 1) (i : α) : Option α := if bit = 0#1 then some i else none

/-- Class LD (30_encoding.md R87, R88): the mode is `opcode[7:5]`, the size `opcode[4:3]`. -/
def namedLd (mode size : Nat) (f : Fields) (cont : BitVec 32) : Option Instr :=
  match mode, size with
  | 0, 3 => some (.lddw f cont)
  | 1, 0 => some (.ldabsw f)
  | 1, 1 => some (.ldabsh f)
  | 1, 2 => some (.ldabsb f)
  | 2, 0 => some (.ldindw f)
  | 2, 1 => some (.ldindh f)
  | 2, 2 => some (.ldindb f)
  | _, _ => none

/-- Class LDX: mode MEM only. -/
def namedLdx (mode size : Nat) (f : Fields) : Option Instr :=
  match mode, size with
  | 3, 0 => some (.ldxw f)
  | 3, 1 => some (.ldxh f)
  | 3, 2 => some (.ldxb f)
  | 3, 3 => some (.ldxdw f)
  | _, _ => none

/-- Class ST: mode MEM only. -/
def namedSt (mode size : Nat) (f : Fields) : Option Instr :=
  match mode, size with
  | 3, 0 => some (.stw f)
  | 3, 1 => some (.sth f)
  | 3, 2 => some (.stb f)
  | 3, 3 => some (.stdw f)
  | _, _ => none

/-- Class STX: mode MEM, and the exclusive adds of mode 6. -/
def namedStx (mode size : Nat) (f : Fields) : Option Instr :=
  match mode, size with
  | 3, 0 => some (.stxw f)
  | 3, 1 => some (.stxh f)
  | 3, 2 => some (.stxb f)
  | 3, 3 => some (.stxdw f)
  | 6, 0 => some (.xaddw f)
  | 6, 3 => some (.xadddw f)
  | _, _ => none

/-- Class ALU (30_encoding.md R86): the operation code is `opcode[7:4]`. -/
def namedAlu32 (code : Nat) (bit : BitVec 1) (f : Fields) (cont : BitVec 32) : Option Instr :=
  match code with
  | 0 => some (bySource bit (.add32K f) (.add32X f))
  | 1 => some (bySource bit (.sub32K f) (.sub32X f))
  | 2 => some (bySource bit (.mul32K f) (.mul32X f))
  | 3 => some (bySource bit (.div32K f) (.div32X f))
  | 4 => some (bySource bit (.or32K f) (.or32X f))
  | 5 => some (bySource bit (.and32K f) (.and32X f))
  | 6 => some (bySource bit (.lsh32K f) (.lsh32X f))
  | 7 => some (bySource bit (.rsh32K f) (.rsh32X f))
  | 8 => onlyBitZero bit (.neg32 f)
  | 9 => some (bySource bit (.mod32K f) (.mod32X f))
  | 10 => some (bySource bit (.xor32K f) (.xor32X f))
  | 11 => some (bySource bit (.mov32K f) (.mov32X f))
  | 12 => some (bySource bit (.arsh32K f) (.arsh32X f))
  | 13 => some (if bit = 0#1 then .le f cont else .be f cont)
  | _ => none

/-- Class ALU64 (30_encoding.md R86): the operation code is `opcode[7:4]`. -/
def namedAlu64 (code : Nat) (bit : BitVec 1) (f : Fields) : Option Instr :=
  match code with
  | 0 => some (bySource bit (.add64K f) (.add64X f))
  | 1 => some (bySource bit (.sub64K f) (.sub64X f))
  | 2 => some (bySource bit (.mul64K f) (.mul64X f))
  | 3 => some (bySource bit (.div64K f) (.div64X f))
  | 4 => some (bySource bit (.or64K f) (.or64X f))
  | 5 => some (bySource bit (.and64K f) (.and64X f))
  | 6 => some (bySource bit (.lsh64K f) (.lsh64X f))
  | 7 => some (bySource bit (.rsh64K f) (.rsh64X f))
  | 8 => onlyBitZero bit (.neg64 f)
  | 9 => some (bySource bit (.mod64K f) (.mod64X f))
  | 10 => some (bySource bit (.xor64K f) (.xor64X f))
  | 11 => some (bySource bit (.mov64K f) (.mov64X f))
  | 12 => some (bySource bit (.arsh64K f) (.arsh64X f))
  | _ => none

/-- Class JMP (30_encoding.md R90). -/
def namedJmp (code : Nat) (bit : BitVec 1) (f : Fields) : Option Instr :=
  match code with
  | 0 => onlyBitZero bit (.ja f)
  | 1 => some (bySource bit (.jeqK f) (.jeqX f))
  | 2 => some (bySource bit (.jgtK f) (.jgtX f))
  | 3 => some (bySource bit (.jgeK f) (.jgeX f))
  | 4 => some (bySource bit (.jsetK f) (.jsetX f))
  | 5 => some (bySource bit (.jneK f) (.jneX f))
  | 6 => some (bySource bit (.jsgtK f) (.jsgtX f))
  | 7 => some (bySource bit (.jsgeK f) (.jsgeX f))
  | 8 => onlyBitZero bit (.call f)
  | 9 => onlyBitZero bit (.exit f)
  | 10 => some (bySource bit (.jltK f) (.jltX f))
  | 11 => some (bySource bit (.jleK f) (.jleX f))
  | 12 => some (bySource bit (.jsltK f) (.jsltX f))
  | 13 => some (bySource bit (.jsleK f) (.jsleX f))
  | _ => none

/-- Class JMP32 (30_encoding.md R90). -/
def namedJmp32 (code : Nat) (bit : BitVec 1) (f : Fields) : Option Instr :=
  match code with
  | 1 => some (bySource bit (.jeq32K f) (.jeq32X f))
  | 2 => some (bySource bit (.jgt32K f) (.jgt32X f))
  | 3 => some (bySource bit (.jge32K f) (.jge32X f))
  | 4 => some (bySource bit (.jset32K f) (.jset32X f))
  | 5 => some (bySource bit (.jne32K f) (.jne32X f))
  | 6 => some (bySource bit (.jsgt32K f) (.jsgt32X f))
  | 7 => some (bySource bit (.jsge32K f) (.jsge32X f))
  | 10 => some (bySource bit (.jlt32K f) (.jlt32X f))
  | 11 => some (bySource bit (.jle32K f) (.jle32X f))
  | 12 => some (bySource bit (.jslt32K f) (.jslt32X f))
  | 13 => some (bySource bit (.jsle32K f) (.jsle32X f))
  | _ => none

/-- The instruction that the opcode byte names, by class (30_encoding.md R84 to R90, R94); none for the 136 values
without a name (R95 (a)). -/
def named (b0 : Byte) (f : Fields) (cont : BitVec 32) : Option Instr :=
  let code := (b0.extractLsb' 4 4).toNat
  let bit := b0.extractLsb' 3 1
  let mode := (b0.extractLsb' 5 3).toNat
  let size := (b0.extractLsb' 3 2).toNat
  match (b0.extractLsb' 0 3).toNat with
  | 0 => namedLd mode size f cont
  | 1 => namedLdx mode size f
  | 2 => namedSt mode size f
  | 3 => namedStx mode size f
  | 4 => namedAlu32 code bit f cont
  | 5 => namedJmp code bit f
  | 6 => namedJmp32 code bit f
  | _ => namedAlu64 code bit f

/-! ## The decoder -/

/-- What the decoder answers: an instruction, or one of its three faults (40_decoder.md R120). -/
inductive Decoded where
  | instr (i : Instr)
  | fault (k : FaultKind)
  deriving DecidableEq, Repr

/-- A named instruction, or UnsupportedOpcode (40_decoder.md R117 (a)). -/
def namedOrUnsupported (b0 : Byte) (f : Fields) (cont : BitVec 32) : Decoded :=
  match named b0 f cont with
  | some i => .instr i
  | none => .fault .unsupportedOpcode

/-- The reading half of the decoder: the fetched bytes (from `8*pc` on, at most 16 of them) to a named instruction,
by 40_decoder.md R111 to R116 and R117 (a). It rejects a truncated word, a missing or malformed continuation word
and an opcode without a name. -/
def readInstr (o : ByteOrder) (bytes : List Byte) : Decoded :=
  match bytes with
  | b0 :: b1 :: b2 :: b3 :: b4 :: b5 :: b6 :: b7 :: rest =>
    let f := Fields.ofBytes o b1 b2 b3 b4 b5 b6 b7
    if wideWord b0 f.imm then
      match rest with
      | c0 :: c1 :: c2 :: c3 :: c4 :: c5 :: c6 :: c7 :: _ =>
        if c0 = 0#8 ∧ c1 = 0#8 ∧ c2 = 0#8 ∧ c3 = 0#8 then
          namedOrUnsupported b0 f (BitVec.ofNat 32 (compose o [c4, c5, c6, c7]))
        else .fault .decodeFault
      | _ => .fault .decodeFault
    else namedOrUnsupported b0 f 0#32
  | _ => .fault .decodeFault

/-- Whether an instruction takes a continuation word (30_encoding.md R92). -/
def Instr.wide (i : Instr) : Bool :=
  match i.format with
  | .lddw => true
  | .swap => decide (32 < i.fields.imm.toInt)
  | .aluK | .aluX | .aluU | .ldx | .st | .stx | .ldabs | .ldind | .xadd | .ja | .jccK | .jccX | .call | .exit =>
    false

/-- `len`: 1 or 2 words (40_decoder.md R115). -/
def Instr.len (i : Instr) : Nat := if i.wide then 2 else 1

/-- `imm64`: the composed immediate of a wide instruction, the sign-extended one of the others (40_decoder.md R115,
30_encoding.md R91). -/
def Instr.imm64 (i : Instr) : Word := if i.wide then i.cont ++ i.fields.imm else i.fields.imm.signExtend 64

/-- A byte swap's width is one the core knows (42_alu32.md R196 (b)). -/
def swapWidthOk (imm64 : Word) : Bool := imm64 == 16#64 || imm64 == 32#64 || imm64 == 64#64

/-- Whether a named instruction has no operation: 40_decoder.md R117 (b), (c) and (d). -/
def Instr.unsupported (helpers : List HelperId) (i : Instr) : Bool :=
  match i.format with
  | .ldabs | .ldind | .xadd => true
  | .swap => !swapWidthOk i.imm64
  | .call => !helpers.contains i.fields.imm
  | .aluK | .aluX | .aluU | .lddw | .ldx | .st | .stx | .ja | .jccK | .jccX | .exit => false

/-- The checking half of the decoder, in the order of 40_decoder.md R119: UnsupportedOpcode (R117 (b) to (d)), then
the register range of both nibbles (R118). -/
def Instr.rejection (helpers : List HelperId) (i : Instr) : Option FaultKind :=
  if i.unsupported helpers then some .unsupportedOpcode
  else if 10 < i.fields.dst.toNat ∨ 10 < i.fields.src.toNat then some .invalidRegister
  else none

/-- `Decode` (40_decoder.md R110 to R119) on the fetched bytes. -/
def decode (o : ByteOrder) (helpers : List HelperId) (bytes : List Byte) : Decoded :=
  match readInstr o bytes with
  | .fault k => .fault k
  | .instr i =>
    match i.rejection helpers with
    | some k => .fault k
    | none => .instr i

/-- `raw`, the instruction bytes of the fault record, out of the fetched ones (60_exceptions.md R350): 8 of a
one-word instruction, 16 of a wide one, fewer where the stream is truncated. -/
def rawOf (o : ByteOrder) (bytes : List Byte) : List Byte :=
  match bytes with
  | b0 :: b1 :: b2 :: b3 :: b4 :: b5 :: b6 :: b7 :: _ =>
    bytes.take (if wideWord b0 (Fields.ofBytes o b1 b2 b3 b4 b5 b6 b7).imm then 16 else 8)
  | _ => bytes

/-! ## The encoder -/

/-- An ALU or jump opcode: operation code, bit 3, class (30_encoding.md R84, R85). -/
def aluOpcode (code : BitVec 4) (bit : BitVec 1) (cls : BitVec 3) : Byte := code ++ bit ++ cls

/-- A load or store opcode: mode, size, class (30_encoding.md R84, R87, R88). -/
def memOpcode (mode : BitVec 3) (size : BitVec 2) (cls : BitVec 3) : Byte := mode ++ size ++ cls

/-- The opcode byte of each instruction, from the tables of 30_encoding.md R84 to R90. -/
def Instr.opcode : Instr → Byte
  | .add64K _ => aluOpcode 0x0#4 Config.srcImmBit 7#3
  | .add64X _ => aluOpcode 0x0#4 (~~~Config.srcImmBit) 7#3
  | .sub64K _ => aluOpcode 0x1#4 Config.srcImmBit 7#3
  | .sub64X _ => aluOpcode 0x1#4 (~~~Config.srcImmBit) 7#3
  | .mul64K _ => aluOpcode 0x2#4 Config.srcImmBit 7#3
  | .mul64X _ => aluOpcode 0x2#4 (~~~Config.srcImmBit) 7#3
  | .div64K _ => aluOpcode 0x3#4 Config.srcImmBit 7#3
  | .div64X _ => aluOpcode 0x3#4 (~~~Config.srcImmBit) 7#3
  | .or64K _ => aluOpcode 0x4#4 Config.srcImmBit 7#3
  | .or64X _ => aluOpcode 0x4#4 (~~~Config.srcImmBit) 7#3
  | .and64K _ => aluOpcode 0x5#4 Config.srcImmBit 7#3
  | .and64X _ => aluOpcode 0x5#4 (~~~Config.srcImmBit) 7#3
  | .lsh64K _ => aluOpcode 0x6#4 Config.srcImmBit 7#3
  | .lsh64X _ => aluOpcode 0x6#4 (~~~Config.srcImmBit) 7#3
  | .rsh64K _ => aluOpcode 0x7#4 Config.srcImmBit 7#3
  | .rsh64X _ => aluOpcode 0x7#4 (~~~Config.srcImmBit) 7#3
  | .mod64K _ => aluOpcode 0x9#4 Config.srcImmBit 7#3
  | .mod64X _ => aluOpcode 0x9#4 (~~~Config.srcImmBit) 7#3
  | .xor64K _ => aluOpcode 0xa#4 Config.srcImmBit 7#3
  | .xor64X _ => aluOpcode 0xa#4 (~~~Config.srcImmBit) 7#3
  | .mov64K _ => aluOpcode 0xb#4 Config.srcImmBit 7#3
  | .mov64X _ => aluOpcode 0xb#4 (~~~Config.srcImmBit) 7#3
  | .arsh64K _ => aluOpcode 0xc#4 Config.srcImmBit 7#3
  | .arsh64X _ => aluOpcode 0xc#4 (~~~Config.srcImmBit) 7#3
  | .neg64 _ => aluOpcode 0x8#4 0#1 7#3
  | .add32K _ => aluOpcode 0x0#4 Config.srcImmBit 4#3
  | .add32X _ => aluOpcode 0x0#4 (~~~Config.srcImmBit) 4#3
  | .sub32K _ => aluOpcode 0x1#4 Config.srcImmBit 4#3
  | .sub32X _ => aluOpcode 0x1#4 (~~~Config.srcImmBit) 4#3
  | .mul32K _ => aluOpcode 0x2#4 Config.srcImmBit 4#3
  | .mul32X _ => aluOpcode 0x2#4 (~~~Config.srcImmBit) 4#3
  | .div32K _ => aluOpcode 0x3#4 Config.srcImmBit 4#3
  | .div32X _ => aluOpcode 0x3#4 (~~~Config.srcImmBit) 4#3
  | .or32K _ => aluOpcode 0x4#4 Config.srcImmBit 4#3
  | .or32X _ => aluOpcode 0x4#4 (~~~Config.srcImmBit) 4#3
  | .and32K _ => aluOpcode 0x5#4 Config.srcImmBit 4#3
  | .and32X _ => aluOpcode 0x5#4 (~~~Config.srcImmBit) 4#3
  | .lsh32K _ => aluOpcode 0x6#4 Config.srcImmBit 4#3
  | .lsh32X _ => aluOpcode 0x6#4 (~~~Config.srcImmBit) 4#3
  | .rsh32K _ => aluOpcode 0x7#4 Config.srcImmBit 4#3
  | .rsh32X _ => aluOpcode 0x7#4 (~~~Config.srcImmBit) 4#3
  | .mod32K _ => aluOpcode 0x9#4 Config.srcImmBit 4#3
  | .mod32X _ => aluOpcode 0x9#4 (~~~Config.srcImmBit) 4#3
  | .xor32K _ => aluOpcode 0xa#4 Config.srcImmBit 4#3
  | .xor32X _ => aluOpcode 0xa#4 (~~~Config.srcImmBit) 4#3
  | .mov32K _ => aluOpcode 0xb#4 Config.srcImmBit 4#3
  | .mov32X _ => aluOpcode 0xb#4 (~~~Config.srcImmBit) 4#3
  | .arsh32K _ => aluOpcode 0xc#4 Config.srcImmBit 4#3
  | .arsh32X _ => aluOpcode 0xc#4 (~~~Config.srcImmBit) 4#3
  | .neg32 _ => aluOpcode 0x8#4 0#1 4#3
  | .le _ _ => aluOpcode 0xd#4 0#1 4#3
  | .be _ _ => aluOpcode 0xd#4 1#1 4#3
  | .lddw _ _ => memOpcode 0#3 3#2 0#3
  | .ldxw _ => memOpcode 3#3 0#2 1#3
  | .ldxh _ => memOpcode 3#3 1#2 1#3
  | .ldxb _ => memOpcode 3#3 2#2 1#3
  | .ldxdw _ => memOpcode 3#3 3#2 1#3
  | .stw _ => memOpcode 3#3 0#2 2#3
  | .sth _ => memOpcode 3#3 1#2 2#3
  | .stb _ => memOpcode 3#3 2#2 2#3
  | .stdw _ => memOpcode 3#3 3#2 2#3
  | .stxw _ => memOpcode 3#3 0#2 3#3
  | .stxh _ => memOpcode 3#3 1#2 3#3
  | .stxb _ => memOpcode 3#3 2#2 3#3
  | .stxdw _ => memOpcode 3#3 3#2 3#3
  | .ldabsw _ => memOpcode 1#3 0#2 0#3
  | .ldabsh _ => memOpcode 1#3 1#2 0#3
  | .ldabsb _ => memOpcode 1#3 2#2 0#3
  | .ldindw _ => memOpcode 2#3 0#2 0#3
  | .ldindh _ => memOpcode 2#3 1#2 0#3
  | .ldindb _ => memOpcode 2#3 2#2 0#3
  | .xaddw _ => memOpcode 6#3 0#2 3#3
  | .xadddw _ => memOpcode 6#3 3#2 3#3
  | .ja _ => aluOpcode 0x0#4 0#1 5#3
  | .jeqK _ => aluOpcode 0x1#4 Config.srcImmBit 5#3
  | .jeqX _ => aluOpcode 0x1#4 (~~~Config.srcImmBit) 5#3
  | .jgtK _ => aluOpcode 0x2#4 Config.srcImmBit 5#3
  | .jgtX _ => aluOpcode 0x2#4 (~~~Config.srcImmBit) 5#3
  | .jgeK _ => aluOpcode 0x3#4 Config.srcImmBit 5#3
  | .jgeX _ => aluOpcode 0x3#4 (~~~Config.srcImmBit) 5#3
  | .jsetK _ => aluOpcode 0x4#4 Config.srcImmBit 5#3
  | .jsetX _ => aluOpcode 0x4#4 (~~~Config.srcImmBit) 5#3
  | .jneK _ => aluOpcode 0x5#4 Config.srcImmBit 5#3
  | .jneX _ => aluOpcode 0x5#4 (~~~Config.srcImmBit) 5#3
  | .jsgtK _ => aluOpcode 0x6#4 Config.srcImmBit 5#3
  | .jsgtX _ => aluOpcode 0x6#4 (~~~Config.srcImmBit) 5#3
  | .jsgeK _ => aluOpcode 0x7#4 Config.srcImmBit 5#3
  | .jsgeX _ => aluOpcode 0x7#4 (~~~Config.srcImmBit) 5#3
  | .jltK _ => aluOpcode 0xa#4 Config.srcImmBit 5#3
  | .jltX _ => aluOpcode 0xa#4 (~~~Config.srcImmBit) 5#3
  | .jleK _ => aluOpcode 0xb#4 Config.srcImmBit 5#3
  | .jleX _ => aluOpcode 0xb#4 (~~~Config.srcImmBit) 5#3
  | .jsltK _ => aluOpcode 0xc#4 Config.srcImmBit 5#3
  | .jsltX _ => aluOpcode 0xc#4 (~~~Config.srcImmBit) 5#3
  | .jsleK _ => aluOpcode 0xd#4 Config.srcImmBit 5#3
  | .jsleX _ => aluOpcode 0xd#4 (~~~Config.srcImmBit) 5#3
  | .jeq32K _ => aluOpcode 0x1#4 Config.srcImmBit 6#3
  | .jeq32X _ => aluOpcode 0x1#4 (~~~Config.srcImmBit) 6#3
  | .jgt32K _ => aluOpcode 0x2#4 Config.srcImmBit 6#3
  | .jgt32X _ => aluOpcode 0x2#4 (~~~Config.srcImmBit) 6#3
  | .jge32K _ => aluOpcode 0x3#4 Config.srcImmBit 6#3
  | .jge32X _ => aluOpcode 0x3#4 (~~~Config.srcImmBit) 6#3
  | .jset32K _ => aluOpcode 0x4#4 Config.srcImmBit 6#3
  | .jset32X _ => aluOpcode 0x4#4 (~~~Config.srcImmBit) 6#3
  | .jne32K _ => aluOpcode 0x5#4 Config.srcImmBit 6#3
  | .jne32X _ => aluOpcode 0x5#4 (~~~Config.srcImmBit) 6#3
  | .jsgt32K _ => aluOpcode 0x6#4 Config.srcImmBit 6#3
  | .jsgt32X _ => aluOpcode 0x6#4 (~~~Config.srcImmBit) 6#3
  | .jsge32K _ => aluOpcode 0x7#4 Config.srcImmBit 6#3
  | .jsge32X _ => aluOpcode 0x7#4 (~~~Config.srcImmBit) 6#3
  | .jlt32K _ => aluOpcode 0xa#4 Config.srcImmBit 6#3
  | .jlt32X _ => aluOpcode 0xa#4 (~~~Config.srcImmBit) 6#3
  | .jle32K _ => aluOpcode 0xb#4 Config.srcImmBit 6#3
  | .jle32X _ => aluOpcode 0xb#4 (~~~Config.srcImmBit) 6#3
  | .jslt32K _ => aluOpcode 0xc#4 Config.srcImmBit 6#3
  | .jslt32X _ => aluOpcode 0xc#4 (~~~Config.srcImmBit) 6#3
  | .jsle32K _ => aluOpcode 0xd#4 Config.srcImmBit 6#3
  | .jsle32X _ => aluOpcode 0xd#4 (~~~Config.srcImmBit) 6#3
  | .call _ => aluOpcode 0x8#4 0#1 5#3
  | .exit _ => aluOpcode 0x9#4 0#1 5#3

/-- Byte 1 (30_encoding.md R99): `src*16 + dst` with LE, `dst*16 + src` with BE. -/
def regByte (o : ByteOrder) (f : Fields) : Byte :=
  match o with
  | .le => f.src ++ f.dst
  | .be => f.dst ++ f.src

/-- The eight bytes of a first word (30_encoding.md R99). -/
def encodeWord (o : ByteOrder) (b0 : Byte) (f : Fields) : List Byte :=
  b0 :: regByte o f :: (split o 2 f.off.toNat ++ split o 4 f.imm.toNat)

/-- The continuation word (30_encoding.md R91, R99): four zero bytes and the immediate. -/
def encodeCont (o : ByteOrder) (cont : BitVec 32) : List Byte :=
  0#8 :: 0#8 :: 0#8 :: 0#8 :: split o 4 cont.toNat

/-- The words of an instruction (30_encoding.md R99). -/
def encode (o : ByteOrder) (i : Instr) : List Byte :=
  encodeWord o i.opcode i.fields ++ (if i.wide then encodeCont o i.cont else [])

/-! ## The host's table word -/

/-- The 16 bytes of a table word: bit 0 is the least significant bit of the first byte; the bits above `nbits` are
0. -/
def tableWordBytes (nbits w : Nat) : List Byte := splitLE 16 (w % 2 ^ nbits)

/-- What the decoder reads from a table word. It answers with the READING half, `readInstr`: the checking half needs
the run's HELPERS, and it turns the eight named opcodes without an operation into UnsupportedOpcode
(40_decoder.md R117), as their meanings do. The bytes stand in LE. -/
def decodeTableWord (nbits w : Nat) : Option Instr :=
  match readInstr .le (tableWordBytes nbits w) with
  | .instr i => some i
  | .fault _ => none

end Sys2Proof
end

