-- ==== Sys2Proof/Machine/State.lean ====
section
/-! DEFINITION. The state of the core (10_state.md), its inputs (45_fetch_execute.md R321) and its reset values
(10_state.md R39, 70_reset_and_hazards.md R380). Plain data throughout. -/

namespace Sys2Proof.Machine

/-- STATUS (10_state.md R33). -/
inductive Status where
  | running
  | exited
  | faulted
  deriving DecidableEq, Repr

/-- FAULT, the fault record (10_state.md R34): the kind, the word index and the fetched bytes of the faulting
instruction. -/
structure FaultRecord where
  kind : FaultKind
  pc   : Int
  raw  : List Byte
  deriving DecidableEq, Repr

/-- The stack, sparse: (address, byte) pairs in the canonical form that `Memory.wf` says. A byte that is not listed
reads as `Config.unlistedByte`. -/
abbrev Memory := List Host.Cell

/-- `Memory.wf` from an address on: addresses strictly rising from `lo`, all below STACK_SIZE, and no entry equal to
what an unlisted address reads as. -/
def Memory.wfFrom (lo : Nat) : Memory → Bool
  | [] => true
  | (a, b) :: m =>
    decide (lo ≤ a) && decide (a < Config.stackSize) && (b != Config.unlistedByte) && Memory.wfFrom (a + 1) m

/-- The canonical form of the stack, so that equal stacks are equal lists. -/
def Memory.wf (m : Memory) : Bool := Memory.wfFrom 0 m

/-- Everything the spec gives the machine (10_state.md; INVENTORY.md, State). -/
structure State where
  /-- x[0] to x[10] (R20). -/
  regs      : Vector Word 11
  /-- The program counter, a word index and a mathematical integer (R26). -/
  pc        : Int
  /-- STACK (R31, R52). -/
  stack     : Memory
  /-- BYTE_ORDER (R32). -/
  byteOrder : ByteOrder
  /-- STATUS (R33). -/
  status    : Status
  /-- FAULT (R34). -/
  fault     : Option FaultRecord
  /-- PROG (R30). -/
  prog      : List Byte
  /-- HELPERS, ids and effects (44_jump.md R276). -/
  helpers   : HelperTable
  /-- The model's own field (log 7): the number of the next helper draw. -/
  draws     : Nat
  deriving DecidableEq, Repr

/-- Why the model would stop. No constructor: all five faults of the spec have an entry it describes
(60_exceptions.md R350), so they are next states (`State.takeFault`), and nothing else stops the core. Safe and
unsafe do not arise. -/
inductive Fault where
  deriving DecidableEq, Repr

/-- Why the model would give an instruction no meaning. -/
inductive Refusal where
  /-- Raised by an arm of `exec` for an instruction that has no meaning yet; safe. No arm raises it. -/
  | notModelled (mnemonic : String)
  deriving DecidableEq, Repr

/-- What an instruction answers. -/
abbrev Result := Host.Outcome State Fault Refusal

/-- What the environment supplies before `reset` (45_fetch_execute.md R321, 70_reset_and_hazards.md R383). -/
structure Inputs where
  prog      : List Byte
  byteOrder : ByteOrder
  helpers   : HelperTable
  initRegs  : Vector Word 10
  initStack : Memory
  /-- The model's own input (log 7): where the run's helper draws begin. -/
  firstDraw : Nat
  deriving DecidableEq, Repr

/-- The state after `reset` with the given inputs (70_reset_and_hazards.md R380, 10_state.md R39). -/
def State.resetWith (inp : Inputs) : State where
  regs      := inp.initRegs.push 512#64
  pc        := 0
  stack     := inp.initStack
  byteOrder := inp.byteOrder
  status    := .running
  fault     := none
  prog      := inp.prog
  helpers   := inp.helpers
  draws     := inp.firstDraw

/-- The `reset` event, in any state: nothing survives (70_reset_and_hazards.md R382). -/
def State.resetEvent (inp : Inputs) (_before : State) : State := State.resetWith inp

/-- The inputs of `State.reset`. DESIGN CHOICE (logs 2 to 7): the spec leaves every one of them to the
environment, and the first draw is the model's own. -/
def Inputs.default : Inputs where
  prog      := []
  byteOrder := .le
  helpers   := []
  initRegs  := Vector.replicate 10 0#64
  initStack := []
  firstDraw := 0

/-- The machine right after reset, with the model's default inputs. -/
def State.reset : State := State.resetWith Inputs.default

end Sys2Proof.Machine
end

