-- ==== Sys2Proof/Machine/Ops.lean ====
section
/-! DEFINITION. The shared operations over registers, stack and program: every meaning is written over these. -/

namespace Sys2Proof.Machine

/-! ## Fetch and faults -/

/-- The bytes of PROG from `8*pc` on, at most 16; none where `pc` is negative (40_decoder.md R111). -/
def State.fetchBytes (s : State) : List Byte :=
  if s.pc < 0 then [] else (s.prog.drop (8 * s.pc.toNat)).take 16

/-- The instruction bytes that a fault of this step records (60_exceptions.md R350). -/
def State.rawBytes (s : State) : List Byte := rawOf s.byteOrder s.fetchBytes

/-- Fault entry, `raise K(pc, raw)` (60_exceptions.md R350): the record is written, STATUS becomes Faulted, and nothing
else changes; `pc` stays at the instruction. There is no return from it (R351): only `State.resetEvent` leaves
Faulted. -/
def State.takeFault (s : State) (k : FaultKind) : State :=
  { s with status := .faulted, fault := some ⟨k, s.pc, s.rawBytes⟩ }

/-- The step ends with fault `k`. -/
def raise (s : State) (k : FaultKind) : Result := .next (s.takeFault k)

/-- The code of a fault kind (60_exceptions.md R340; log 8: the spec's own numbers, D24). -/
def faultCode : FaultKind → Nat
  | .decodeFault => 1
  | .invalidRegister => 2
  | .frameRegisterWriteViolation => 3
  | .memoryBoundsFault => 4
  | .unsupportedOpcode => 5

/-- FAULT's code, 0 for no fault (R340). -/
def State.faultCode (s : State) : Nat :=
  match s.fault with
  | none => 0
  | some r => Machine.faultCode r.kind

/-- The keys of HELPERS (44_jump.md R276). -/
def State.helperIds (s : State) : List HelperId := s.helpers.map Prod.fst

/-- The decoder applied to the fetched bytes (45_fetch_execute.md R322 (1)). -/
def State.fetchDecode (s : State) : Decoded := decode s.byteOrder s.helperIds s.fetchBytes

/-! ## Registers and pc -/

/-- Register read, `x[i]` (10_state.md R22): none for an id above 10. -/
def State.reg? (s : State) (i : RegId) : Option Word := s.regs[i.toNat]?

/-- Go on with `x[i]`, or raise InvalidRegister (10_state.md R22). -/
def withReg (s : State) (i : RegId) (k : Word → Result) : Result :=
  match s.reg? i with
  | some v => k v
  | none => raise s .invalidRegister

/-- `x[i]` as a plain value, for statements; ids above 10 name no register and read as 0 here. -/
def State.reg (s : State) (i : RegId) : Word := (s.reg? i).getD 0#64

/-- The unchecked register write. -/
def State.setReg (s : State) (i : RegId) (v : Word) : State :=
  { s with regs := s.regs.setIfInBounds i.toNat v }

/-- `pc <- pc + n`, in words (10_state.md R27). -/
def State.advance (s : State) (n : Int) : State := { s with pc := s.pc + n }

/-- The checked register write `x[i] <- v` (10_state.md R23) and the advance over `words` words. It is the last action
of every instruction that has one. -/
def writeDst (s : State) (i : RegId) (v : Word) (words : Int) : Result :=
  if 10 < i.toNat then raise s .invalidRegister
  else if i.toNat = 10 then raise s .frameRegisterWriteViolation
  else .next ((s.setReg i v).advance words)

/-! ## The stack -/

/-- One byte of the stack. -/
def Memory.read : Memory → Nat → Byte
  | [], _ => Config.unlistedByte
  | (a, b) :: m, x => if a = x then b else Memory.read m x

/-- An entry in front, unless it says what an unlisted address says anyway. -/
def Memory.entry (x : Nat) (v : Byte) (m : Memory) : Memory :=
  if v = Config.unlistedByte then m else (x, v) :: m

/-- Write one byte, keeping the canonical form. -/
def Memory.write : Memory → Nat → Byte → Memory
  | [], x, v => Memory.entry x v []
  | (a, b) :: m, x, v =>
    if x < a then Memory.entry x v ((a, b) :: m)
    else if x = a then Memory.entry x v m
    else (a, b) :: Memory.write m x v

/-- The `n` bytes from address `a` on, lowest address first (20_memory.md R51). -/
def Memory.readBytes (m : Memory) (a : Nat) : Nat → List Byte
  | 0 => []
  | n + 1 => Memory.read m a :: Memory.readBytes m (a + 1) n

/-- Write the bytes from address `a` on, in order (20_memory.md R54). -/
def Memory.writeBytes (m : Memory) (a : Nat) : List Byte → Memory
  | [] => m
  | b :: bs => Memory.writeBytes (Memory.write m a b) (a + 1) bs

/-- The canonical memory whose byte at `a + k` is `g (a + k)` for `k < n`. -/
def Memory.tabulate (g : Nat → Byte) (a : Nat) : Nat → Memory
  | 0 => []
  | n + 1 => Memory.entry a (g a) (Memory.tabulate g (a + 1) n)

/-- The bounds check of 20_memory.md R55. -/
def inBounds (addr : Int) (n : Nat) : Bool := decide (0 ≤ addr) && decide (addr + n ≤ Config.stackSize)

/-- `MemRead(addr, n)` (20_memory.md R53), zero-extended to 64 bits; none where the access is out of bounds. -/
def State.memRead (s : State) (addr : Int) (n : Nat) : Option Word :=
  if inBounds addr n then
    some (BitVec.ofNat 64 (compose s.byteOrder (s.stack.readBytes addr.toNat n)))
  else none

/-- `MemWrite(addr, n, v)` (20_memory.md R54): the low `8n` bits of `v`; none, and no byte written, where the access is
out of bounds. -/
def State.memWrite (s : State) (addr : Int) (n : Nat) (v : Word) : Option State :=
  if inBounds addr n then
    some { s with stack := s.stack.writeBytes addr.toNat (split s.byteOrder n v.toNat) }
  else none

/-! ## Placing an instruction -/

/-- PROG with `bytes` standing from byte index `at` on; zero bytes fill a gap before them. -/
def patchProg (prog : List Byte) (pos : Nat) (bytes : List Byte) : List Byte :=
  prog.take pos ++ List.replicate (pos - prog.length) 0#8 ++ bytes ++ prog.drop (pos + bytes.length)

end Sys2Proof.Machine
end

