-- ==== Sys2Proof/Machine/Flags.lean ====
section
/-! DEFINITION. The core has no flags (10_state.md R29): a conditional jump compares its operands itself. These are the
eleven comparators, for 64-bit (44_jump.md R251) and 32-bit operands (R252). -/

namespace Sys2Proof.Machine

/-- `jeq`: `d = s`. -/
def cmpEq {w : Nat} (d s : BitVec w) : Bool := d == s

/-- `jgt`: unsigned greater than. -/
def cmpGt {w : Nat} (d s : BitVec w) : Bool := s.ult d

/-- `jge`: unsigned greater or equal. -/
def cmpGe {w : Nat} (d s : BitVec w) : Bool := s.ule d

/-- `jset`: the bitwise AND is not zero. -/
def cmpSet {w : Nat} (d s : BitVec w) : Bool := (d &&& s) != 0#w

/-- `jne`: `d != s`. -/
def cmpNe {w : Nat} (d s : BitVec w) : Bool := d != s

/-- `jsgt`: signed greater than. -/
def cmpSgt {w : Nat} (d s : BitVec w) : Bool := s.slt d

/-- `jsge`: signed greater or equal. -/
def cmpSge {w : Nat} (d s : BitVec w) : Bool := s.sle d

/-- `jlt`: unsigned less than. -/
def cmpLt {w : Nat} (d s : BitVec w) : Bool := d.ult s

/-- `jle`: unsigned less or equal. -/
def cmpLe {w : Nat} (d s : BitVec w) : Bool := d.ule s

/-- `jslt`: signed less than. -/
def cmpSlt {w : Nat} (d s : BitVec w) : Bool := d.slt s

/-- `jsle`: signed less or equal. -/
def cmpSle {w : Nat} (d s : BitVec w) : Bool := d.sle s

end Sys2Proof.Machine
end

