-- ==== Sys2Proof/Machine/Operands.lean ====
section
/-! DEFINITION. Operand forms (30_encoding.md R93) and the shapes that the instructions of a family share. -/

namespace Sys2Proof.Machine

/-! ## Operands -/

/-- The immediate as a 64-bit operand (30_encoding.md R93 (a)). -/
def immOperand (f : Fields) : Word := f.imm.signExtend 64

/-- `x[i][31:0]` (30_encoding.md R93 (b), 42_alu32.md R170). -/
def low32 (v : Word) : BitVec 32 := v.setWidth 32

/-- The effective address of a load or store, a mathematical integer (20_memory.md R67). -/
def effectiveAddress (base : Word) (off : BitVec 16) : Int := (base.toNat : Int) + off.toInt

/-- `bswap_w` on the low `n` bytes (00_scope.md R8): `compose_BE(split_LE(v, n))`, zero-extended. -/
def bswap (n : Nat) (v : Word) : Word := BitVec.ofNat 64 (compose .be (split .le n v.toNat))

/-! ## ALU operations, at either width (41_alu64.md R131 to R133) -/

/-- `add`, modulo 2^w. -/
def aluAdd {w : Nat} (d s : BitVec w) : BitVec w := d + s

/-- `sub`, modulo 2^w. -/
def aluSub {w : Nat} (d s : BitVec w) : BitVec w := d - s

/-- `mul`, modulo 2^w. -/
def aluMul {w : Nat} (d s : BitVec w) : BitVec w := d * s

/-- `div`: unsigned, truncating; 0 for a zero divisor (R132). -/
def aluDiv {w : Nat} (d s : BitVec w) : BitVec w := if s = 0#w then 0#w else d / s

/-- `or`. -/
def aluOr {w : Nat} (d s : BitVec w) : BitVec w := d ||| s

/-- `and`. -/
def aluAnd {w : Nat} (d s : BitVec w) : BitVec w := d &&& s

/-- The shift amount: the second operand modulo the width (R133). -/
def shiftAmount {w : Nat} (s : BitVec w) : Nat := s.toNat % w

/-- `lsh` (R133). -/
def aluLsh {w : Nat} (d s : BitVec w) : BitVec w := d <<< shiftAmount s

/-- `rsh`: zeros enter at the top (R133). -/
def aluRsh {w : Nat} (d s : BitVec w) : BitVec w := d >>> shiftAmount s

/-- `neg`: `0 - d`, modulo 2^w (R131). -/
def aluNeg {w : Nat} (d : BitVec w) : BitVec w := 0#w - d

/-- `mod`: unsigned; 0 for a zero divisor (R132). -/
def aluMod {w : Nat} (d s : BitVec w) : BitVec w := if s = 0#w then 0#w else d % s

/-- `xor`. -/
def aluXor {w : Nat} (d s : BitVec w) : BitVec w := d ^^^ s

/-- `arsh`: copies of the top bit enter (R133). -/
def aluArsh {w : Nat} (d s : BitVec w) : BitVec w := d.sshiftRight (shiftAmount s)

/-! ## Shapes of the ALU families (41_alu64.md R130, 42_alu32.md R170) -/

/-- ALU64, immediate form. -/
def alu64K (op : Word → Word → Word) (f : Fields) (s : State) : Result :=
  withReg s f.dst fun d => writeDst s f.dst (op d (immOperand f)) 1

/-- ALU64, register form: both operands are read before the write. -/
def alu64X (op : Word → Word → Word) (f : Fields) (s : State) : Result :=
  withReg s f.dst fun d => withReg s f.src fun v => writeDst s f.dst (op d v) 1

/-- ALU32, immediate form; the 32-bit result is zero-extended. -/
def alu32K (op : BitVec 32 → BitVec 32 → BitVec 32) (f : Fields) (s : State) : Result :=
  withReg s f.dst fun d => writeDst s f.dst ((op (low32 d) f.imm).setWidth 64) 1

/-- ALU32, register form. -/
def alu32X (op : BitVec 32 → BitVec 32 → BitVec 32) (f : Fields) (s : State) : Result :=
  withReg s f.dst fun d => withReg s f.src fun v => writeDst s f.dst ((op (low32 d) (low32 v)).setWidth 64) 1

/-! ## Loads and stores (43_load_store.md R210) -/

/-- `ldx*` of `n` bytes: address, bounds check, read, register write. -/
def loadN (n : Nat) (f : Fields) (s : State) : Result :=
  withReg s f.src fun base =>
    match s.memRead (effectiveAddress base f.off) n with
    | some v => writeDst s f.dst v 1
    | none => raise s .memoryBoundsFault

/-- Store the low `n` bytes of `v` at `[x[dst] + off]`. -/
def storeN (n : Nat) (v : Word) (f : Fields) (s : State) : Result :=
  withReg s f.dst fun base =>
    match s.memWrite (effectiveAddress base f.off) n v with
    | some t => .next (t.advance 1)
    | none => raise s .memoryBoundsFault

/-- `st*`: the value is the sign-extended immediate (30_encoding.md R93 (e)). -/
def storeImm (n : Nat) (f : Fields) (s : State) : Result := storeN n (immOperand f) f s

/-- `stx*`: the value is `x[src]`. -/
def storeReg (n : Nat) (f : Fields) (s : State) : Result :=
  withReg s f.src fun v => storeN n v f s

/-! ## Jumps (44_jump.md R250 to R252) -/

/-- The next pc of a jump: `pc + 1 + off` when taken, `pc + 1` when not. -/
def jumpIf (taken : Bool) (f : Fields) (s : State) : Result :=
  .next (s.advance (if taken then 1 + f.off.toInt else 1))

/-- JMP, immediate form. -/
def jump64K (cmp : Word → Word → Bool) (f : Fields) (s : State) : Result :=
  withReg s f.dst fun d => jumpIf (cmp d (immOperand f)) f s

/-- JMP, register form. -/
def jump64X (cmp : Word → Word → Bool) (f : Fields) (s : State) : Result :=
  withReg s f.dst fun d => withReg s f.src fun v => jumpIf (cmp d v) f s

/-- JMP32, immediate form. -/
def jump32K (cmp : BitVec 32 → BitVec 32 → Bool) (f : Fields) (s : State) : Result :=
  withReg s f.dst fun d => jumpIf (cmp (low32 d) f.imm) f s

/-- JMP32, register form. -/
def jump32X (cmp : BitVec 32 → BitVec 32 → Bool) (f : Fields) (s : State) : Result :=
  withReg s f.dst fun d => withReg s f.src fun v => jumpIf (cmp (low32 d) (low32 v)) f s

end Sys2Proof.Machine
end

