-- ==== Sys2Proof/Machine/Alu32.lean ====
section
/-! DEFINITION. The 32-bit ALU instructions (42_alu32.md R170 to R195). -/

namespace Sys2Proof.Machine

/-- `add32 rD, imm`: 42_alu32.md R171. -/
def execAdd32K (f : Fields) (s : State) : Result := alu32K aluAdd f s

/-- `add32 rD, rS`: 42_alu32.md R172. -/
def execAdd32X (f : Fields) (s : State) : Result := alu32X aluAdd f s

/-- `sub32 rD, imm`: 42_alu32.md R173. -/
def execSub32K (f : Fields) (s : State) : Result := alu32K aluSub f s

/-- `sub32 rD, rS`: 42_alu32.md R174. -/
def execSub32X (f : Fields) (s : State) : Result := alu32X aluSub f s

/-- `mul32 rD, imm`: 42_alu32.md R175. -/
def execMul32K (f : Fields) (s : State) : Result := alu32K aluMul f s

/-- `mul32 rD, rS`: 42_alu32.md R176. -/
def execMul32X (f : Fields) (s : State) : Result := alu32X aluMul f s

/-- `div32 rD, imm`: 42_alu32.md R177. -/
def execDiv32K (f : Fields) (s : State) : Result := alu32K aluDiv f s

/-- `div32 rD, rS`: 42_alu32.md R178. -/
def execDiv32X (f : Fields) (s : State) : Result := alu32X aluDiv f s

/-- `or32 rD, imm`: 42_alu32.md R179. -/
def execOr32K (f : Fields) (s : State) : Result := alu32K aluOr f s

/-- `or32 rD, rS`: 42_alu32.md R180. -/
def execOr32X (f : Fields) (s : State) : Result := alu32X aluOr f s

/-- `and32 rD, imm`: 42_alu32.md R181. -/
def execAnd32K (f : Fields) (s : State) : Result := alu32K aluAnd f s

/-- `and32 rD, rS`: 42_alu32.md R182. -/
def execAnd32X (f : Fields) (s : State) : Result := alu32X aluAnd f s

/-- `lsh32 rD, imm`: 42_alu32.md R183. -/
def execLsh32K (f : Fields) (s : State) : Result := alu32K aluLsh f s

/-- `lsh32 rD, rS`: 42_alu32.md R184. -/
def execLsh32X (f : Fields) (s : State) : Result := alu32X aluLsh f s

/-- `rsh32 rD, imm`: 42_alu32.md R185. -/
def execRsh32K (f : Fields) (s : State) : Result := alu32K aluRsh f s

/-- `rsh32 rD, rS`: 42_alu32.md R186. -/
def execRsh32X (f : Fields) (s : State) : Result := alu32X aluRsh f s

/-- `neg32 rD`: 42_alu32.md R187. -/
def execNeg32 (f : Fields) (s : State) : Result :=
  withReg s f.dst fun d => writeDst s f.dst ((aluNeg (low32 d)).setWidth 64) 1

/-- `mod32 rD, imm`: 42_alu32.md R188. -/
def execMod32K (f : Fields) (s : State) : Result := alu32K aluMod f s

/-- `mod32 rD, rS`: 42_alu32.md R189. -/
def execMod32X (f : Fields) (s : State) : Result := alu32X aluMod f s

/-- `xor32 rD, imm`: 42_alu32.md R190. -/
def execXor32K (f : Fields) (s : State) : Result := alu32K aluXor f s

/-- `xor32 rD, rS`: 42_alu32.md R191. -/
def execXor32X (f : Fields) (s : State) : Result := alu32X aluXor f s

/-- `mov32 rD, imm`: 42_alu32.md R192. -/
def execMov32K (f : Fields) (s : State) : Result := writeDst s f.dst (f.imm.setWidth 64) 1

/-- `mov32 rD, rS`: 42_alu32.md R193. -/
def execMov32X (f : Fields) (s : State) : Result :=
  withReg s f.src fun v => writeDst s f.dst ((low32 v).setWidth 64) 1

/-- `arsh32 rD, imm`: 42_alu32.md R194. -/
def execArsh32K (f : Fields) (s : State) : Result := alu32K aluArsh f s

/-- `arsh32 rD, rS`: 42_alu32.md R195. -/
def execArsh32X (f : Fields) (s : State) : Result := alu32X aluArsh f s

end Sys2Proof.Machine
end

