-- ==== Sys2Proof/Machine/Alu64.lean ====
section
/-! DEFINITION. The 64-bit ALU instructions (41_alu64.md). -/

namespace Sys2Proof.Machine

/-- `add64 rD, imm`: 41_alu64.md R134. -/
def execAdd64K (f : Fields) (s : State) : Result := alu64K aluAdd f s

/-- `add64 rD, rS`: 41_alu64.md R135. -/
def execAdd64X (f : Fields) (s : State) : Result := alu64X aluAdd f s

/-- `sub64 rD, imm`: 41_alu64.md R136. -/
def execSub64K (f : Fields) (s : State) : Result := alu64K aluSub f s

/-- `sub64 rD, rS`: 41_alu64.md R137. -/
def execSub64X (f : Fields) (s : State) : Result := alu64X aluSub f s

/-- `mul64 rD, imm`: 41_alu64.md R138. -/
def execMul64K (f : Fields) (s : State) : Result := alu64K aluMul f s

/-- `mul64 rD, rS`: 41_alu64.md R139. -/
def execMul64X (f : Fields) (s : State) : Result := alu64X aluMul f s

/-- `div64 rD, imm`: 41_alu64.md R140. -/
def execDiv64K (f : Fields) (s : State) : Result := alu64K aluDiv f s

/-- `div64 rD, rS`: 41_alu64.md R141. -/
def execDiv64X (f : Fields) (s : State) : Result := alu64X aluDiv f s

/-- `or64 rD, imm`: 41_alu64.md R142. -/
def execOr64K (f : Fields) (s : State) : Result := alu64K aluOr f s

/-- `or64 rD, rS`: 41_alu64.md R143. -/
def execOr64X (f : Fields) (s : State) : Result := alu64X aluOr f s

/-- `and64 rD, imm`: 41_alu64.md R144. -/
def execAnd64K (f : Fields) (s : State) : Result := alu64K aluAnd f s

/-- `and64 rD, rS`: 41_alu64.md R145. -/
def execAnd64X (f : Fields) (s : State) : Result := alu64X aluAnd f s

/-- `lsh64 rD, imm`: 41_alu64.md R146. -/
def execLsh64K (f : Fields) (s : State) : Result := alu64K aluLsh f s

/-- `lsh64 rD, rS`: 41_alu64.md R147. -/
def execLsh64X (f : Fields) (s : State) : Result := alu64X aluLsh f s

/-- `rsh64 rD, imm`: 41_alu64.md R148. -/
def execRsh64K (f : Fields) (s : State) : Result := alu64K aluRsh f s

/-- `rsh64 rD, rS`: 41_alu64.md R149. -/
def execRsh64X (f : Fields) (s : State) : Result := alu64X aluRsh f s

/-- `neg64 rD`: 41_alu64.md R150. -/
def execNeg64 (f : Fields) (s : State) : Result :=
  withReg s f.dst fun d => writeDst s f.dst (aluNeg d) 1

/-- `mod64 rD, imm`: 41_alu64.md R151. -/
def execMod64K (f : Fields) (s : State) : Result := alu64K aluMod f s

/-- `mod64 rD, rS`: 41_alu64.md R152. -/
def execMod64X (f : Fields) (s : State) : Result := alu64X aluMod f s

/-- `xor64 rD, imm`: 41_alu64.md R153. -/
def execXor64K (f : Fields) (s : State) : Result := alu64K aluXor f s

/-- `xor64 rD, rS`: 41_alu64.md R154. -/
def execXor64X (f : Fields) (s : State) : Result := alu64X aluXor f s

/-- `mov64 rD, imm`: 41_alu64.md R155. -/
def execMov64K (f : Fields) (s : State) : Result := writeDst s f.dst (immOperand f) 1

/-- `mov64 rD, rS`: 41_alu64.md R156. -/
def execMov64X (f : Fields) (s : State) : Result :=
  withReg s f.src fun v => writeDst s f.dst v 1

/-- `arsh64 rD, imm`: 41_alu64.md R157. -/
def execArsh64K (f : Fields) (s : State) : Result := alu64K aluArsh f s

/-- `arsh64 rD, rS`: 41_alu64.md R158. -/
def execArsh64X (f : Fields) (s : State) : Result := alu64X aluArsh f s

end Sys2Proof.Machine
end

