-- ==== Sys2Proof/Machine/ByteSwap.lean ====
section
/-! DEFINITION. The byte swaps `le` and `be` (42_alu32.md R196 to R198). -/

namespace Sys2Proof.Machine

/-- A byte swap (42_alu32.md R196 (e)): `target` is the order the opcode names, `words` the instruction's length.
The width is `imm64` (R196 (b)); any other value than 16, 32 or 64 raises UnsupportedOpcode. Converting to the
configured order only truncates, converting to the other reverses the bytes. -/
def swapTo (target : ByteOrder) (imm64 : Word) (words : Int) (f : Fields) (s : State) : Result :=
  if swapWidthOk imm64 then
    withReg s f.dst fun d =>
      let n := imm64.toNat / 8
      let v := BitVec.ofNat 64 (d.toNat % 2 ^ imm64.toNat)
      writeDst s f.dst (if target = s.byteOrder then v else bswap n v) words
  else raise s .unsupportedOpcode

/-- `le16 rD`, `le32 rD`, `le64 rD`: 42_alu32.md R197. -/
def execLe (f : Fields) (cont : BitVec 32) (s : State) : Result :=
  swapTo .le (Instr.le f cont).imm64 (Instr.le f cont).len f s

/-- `be16 rD`, `be32 rD`, `be64 rD`: 42_alu32.md R198. -/
def execBe (f : Fields) (cont : BitVec 32) (s : State) : Result :=
  swapTo .be (Instr.be f cont).imm64 (Instr.be f cont).len f s

end Sys2Proof.Machine
end

