-- ==== Sys2Proof/Machine/Helpers.lean ====
section
/-! DEFINITION. What a helper effect means (44_jump.md R276, 20_memory.md R68): an outcome for every choice of the free
words `w` and the free bytes `b`. -/

namespace Sys2Proof

/-- The argument named. -/
def HelperArgs.get (a : HelperArgs) : HelperArg → Word
  | .a1 => a.a1
  | .a2 => a.a2
  | .a3 => a.a3
  | .a4 => a.a4
  | .a5 => a.a5

/-- The value of an operator. Arithmetic wraps, division and remainder by 0 give 0, a shift takes its amount
modulo 64. -/
def HelperOp.eval (o : HelperOp) (l r : Word) : Word :=
  match o with
  | .add  => l + r
  | .sub  => l - r
  | .mul  => l * r
  | .udiv => if r = 0#64 then 0#64 else l / r
  | .umod => if r = 0#64 then 0#64 else l % r
  | .and  => l &&& r
  | .or   => l ||| r
  | .xor  => l ^^^ r
  | .shl  => l <<< (r.toNat % 64)
  | .lshr => l >>> (r.toNat % 64)
  | .ashr => l.sshiftRight (r.toNat % 64)
  | .eq   => if l = r then 1#64 else 0#64
  | .ult  => if l.ult r then 1#64 else 0#64
  | .slt  => if l.slt r then 1#64 else 0#64

/-- The value of an expression, given the arguments, the stack bytes and the free words. -/
def HelperExpr.eval (args : HelperArgs) (byteAt : Nat → Byte) (w : Nat → Word) : HelperExpr → Word
  | .const v => v
  | .arg a => args.get a
  | .byte a =>
    if (a.eval args byteAt w).toNat < Config.stackSize then (byteAt (a.eval args byteAt w).toNat).setWidth 64 else 0#64
  | .free k => w k
  | .op o l r => o.eval (l.eval args byteAt w) (r.eval args byteAt w)
  | .ite c t e => if c.eval args byteAt w = 0#64 then e.eval args byteAt w else t.eval args byteAt w

/-- What a helper answers: x[0] to x[5] and the stack (44_jump.md R276). -/
structure HelperOutcome where
  regs  : Vector Word 6
  stack : Machine.Memory
  deriving DecidableEq, Repr

/-- One stack byte written, or none where the address is 512 or above. -/
def HelperEffect.store (m : Machine.Memory) (addr value : Word) : Machine.Memory :=
  if addr.toNat < Config.stackSize then Machine.Memory.write m addr.toNat (value.setWidth 8) else m

/-- The outcome of an effect for one choice of its free words and bytes. Every expression reads the stack as it was
before the call. -/
def HelperEffect.outcome (e : HelperEffect) (args : HelperArgs) (stack : Machine.Memory) (w : Nat → Word)
    (b : Nat → Byte) : HelperOutcome where
  regs  :=
    #v[e.regs[0].eval args stack.read w, e.regs[1].eval args stack.read w, e.regs[2].eval args stack.read w,
      e.regs[3].eval args stack.read w, e.regs[4].eval args stack.read w, e.regs[5].eval args stack.read w]
  stack := e.stores.foldl (fun m p => HelperEffect.store m (p.1.eval args stack.read w) (p.2.eval args stack.read w))
    (if e.keepsStack then stack else Machine.Memory.tabulate b 0 Config.stackSize)

/-- The relation that an effect is: the outcomes it allows (44_jump.md R276). -/
def HelperEffect.Allows (e : HelperEffect) (args : HelperArgs) (stack : Machine.Memory) (o : HelperOutcome) : Prop :=
  ∃ w b, o = e.outcome args stack w b

/-- Whether an expression names no free word. -/
def HelperExpr.closed : HelperExpr → Bool
  | .const _ | .arg _ => true
  | .byte a => a.closed
  | .free _ => false
  | .op _ l r => l.closed && r.closed
  | .ite c t e => c.closed && t.closed && e.closed

/-- Whether an effect says of every register and byte what it becomes, so that it is a function
(45_fetch_execute.md R329). -/
def HelperEffect.functional (e : HelperEffect) : Bool :=
  e.regs.toList.all (·.closed) && e.keepsStack && e.stores.all fun p => p.1.closed && p.2.closed

namespace Machine

/-- The call of helper `id` in state `s`: its arguments x[1] to x[5], the stack and the draw (44_jump.md R276). -/
def State.helperCall (s : State) (id : HelperId) : HelperCall where
  id    := id
  args  := ⟨s.reg 1#4, s.reg 2#4, s.reg 3#4, s.reg 4#4, s.reg 5#4⟩
  stack := s.stack
  draw  := s.draws

/-- The outcome that the step takes: the one that the free values of this call make. -/
def State.helperOutcome (s : State) (id : HelperId) (e : HelperEffect) : HelperOutcome :=
  e.outcome (s.helperCall id).args s.stack (Config.helperWord (s.helperCall id)) (Config.helperByte (s.helperCall id))

/-- The register file with x[0] to x[5] replaced; the rest is unchanged (R276). -/
def replaceLow (regs : Vector Word 11) (low : Vector Word 6) : Vector Word 11 :=
  (((((regs.setIfInBounds 0 low[0]).setIfInBounds 1 low[1]).setIfInBounds 2 low[2]).setIfInBounds 3
    low[3]).setIfInBounds 4 low[4]).setIfInBounds 5 low[5]

/-- The register file after helper `id` ran with effect `e`. -/
def State.helperRegs (s : State) (id : HelperId) (e : HelperEffect) : Vector Word 11 :=
  replaceLow s.regs (s.helperOutcome id e).regs

/-- The stack after helper `id` ran with effect `e`. -/
def State.helperStack (s : State) (id : HelperId) (e : HelperEffect) : Memory := (s.helperOutcome id e).stack

end Machine

end Sys2Proof
end

