-- ==== Sys2Proof/Machine/CallExit.lean ====
section
/-! DEFINITION. The two instructions that talk to the environment (60_exceptions.md R355): `call` and `exit`. -/

namespace Sys2Proof.Machine

/-- `call imm`: 44_jump.md R276. The effect that HELPERS gives the id answers an outcome, its open parts being free
(log 7); an id that is no key raises UnsupportedOpcode. -/
def execCall (f : Fields) (s : State) : Result :=
  match s.helpers.lookup f.imm with
  | some e =>
    .next { s with
      regs := s.helperRegs f.imm e, stack := s.helperStack f.imm e, pc := s.pc + 1, draws := s.draws + 1 }
  | none => raise s .unsupportedOpcode

/-- `exit`: 44_jump.md R277. STATUS becomes Exited; nothing else changes, `pc` included. -/
def execExit (_f : Fields) (s : State) : Result := .next { s with status := .exited }

end Sys2Proof.Machine
end

