-- ==== Sys2Proof/Machine/Jump.lean ====
section
/-! DEFINITION. Class JMP: `ja` and the 64-bit conditional jumps (44_jump.md R250 to R275). -/

namespace Sys2Proof.Machine

/-- `ja +off`: 44_jump.md R253. -/
def execJa (f : Fields) (s : State) : Result := jumpIf true f s

/-- `jeq rD, imm, +off`: 44_jump.md R254. -/
def execJeqK (f : Fields) (s : State) : Result := jump64K cmpEq f s

/-- `jeq rD, rS, +off`: 44_jump.md R255. -/
def execJeqX (f : Fields) (s : State) : Result := jump64X cmpEq f s

/-- `jgt rD, imm, +off`: 44_jump.md R256. -/
def execJgtK (f : Fields) (s : State) : Result := jump64K cmpGt f s

/-- `jgt rD, rS, +off`: 44_jump.md R257. -/
def execJgtX (f : Fields) (s : State) : Result := jump64X cmpGt f s

/-- `jge rD, imm, +off`: 44_jump.md R258. -/
def execJgeK (f : Fields) (s : State) : Result := jump64K cmpGe f s

/-- `jge rD, rS, +off`: 44_jump.md R259. -/
def execJgeX (f : Fields) (s : State) : Result := jump64X cmpGe f s

/-- `jset rD, imm, +off`: 44_jump.md R260. -/
def execJsetK (f : Fields) (s : State) : Result := jump64K cmpSet f s

/-- `jset rD, rS, +off`: 44_jump.md R261. -/
def execJsetX (f : Fields) (s : State) : Result := jump64X cmpSet f s

/-- `jne rD, imm, +off`: 44_jump.md R262. -/
def execJneK (f : Fields) (s : State) : Result := jump64K cmpNe f s

/-- `jne rD, rS, +off`: 44_jump.md R263. -/
def execJneX (f : Fields) (s : State) : Result := jump64X cmpNe f s

/-- `jsgt rD, imm, +off`: 44_jump.md R264. -/
def execJsgtK (f : Fields) (s : State) : Result := jump64K cmpSgt f s

/-- `jsgt rD, rS, +off`: 44_jump.md R265. -/
def execJsgtX (f : Fields) (s : State) : Result := jump64X cmpSgt f s

/-- `jsge rD, imm, +off`: 44_jump.md R266. -/
def execJsgeK (f : Fields) (s : State) : Result := jump64K cmpSge f s

/-- `jsge rD, rS, +off`: 44_jump.md R267. -/
def execJsgeX (f : Fields) (s : State) : Result := jump64X cmpSge f s

/-- `jlt rD, imm, +off`: 44_jump.md R268. -/
def execJltK (f : Fields) (s : State) : Result := jump64K cmpLt f s

/-- `jlt rD, rS, +off`: 44_jump.md R269. -/
def execJltX (f : Fields) (s : State) : Result := jump64X cmpLt f s

/-- `jle rD, imm, +off`: 44_jump.md R270. -/
def execJleK (f : Fields) (s : State) : Result := jump64K cmpLe f s

/-- `jle rD, rS, +off`: 44_jump.md R271. -/
def execJleX (f : Fields) (s : State) : Result := jump64X cmpLe f s

/-- `jslt rD, imm, +off`: 44_jump.md R272. -/
def execJsltK (f : Fields) (s : State) : Result := jump64K cmpSlt f s

/-- `jslt rD, rS, +off`: 44_jump.md R273. -/
def execJsltX (f : Fields) (s : State) : Result := jump64X cmpSlt f s

/-- `jsle rD, imm, +off`: 44_jump.md R274. -/
def execJsleK (f : Fields) (s : State) : Result := jump64K cmpSle f s

/-- `jsle rD, rS, +off`: 44_jump.md R275. -/
def execJsleX (f : Fields) (s : State) : Result := jump64X cmpSle f s

end Sys2Proof.Machine
end

