-- ==== Sys2Proof/Machine/Jump32.lean ====
section
/-! DEFINITION. Class JMP32: the 32-bit conditional jumps (44_jump.md R252, R278 to R299). -/

namespace Sys2Proof.Machine

/-- `jeq32 rD, imm, +off`: 44_jump.md R278. -/
def execJeq32K (f : Fields) (s : State) : Result := jump32K cmpEq f s

/-- `jeq32 rD, rS, +off`: 44_jump.md R279. -/
def execJeq32X (f : Fields) (s : State) : Result := jump32X cmpEq f s

/-- `jgt32 rD, imm, +off`: 44_jump.md R280. -/
def execJgt32K (f : Fields) (s : State) : Result := jump32K cmpGt f s

/-- `jgt32 rD, rS, +off`: 44_jump.md R281. -/
def execJgt32X (f : Fields) (s : State) : Result := jump32X cmpGt f s

/-- `jge32 rD, imm, +off`: 44_jump.md R282. -/
def execJge32K (f : Fields) (s : State) : Result := jump32K cmpGe f s

/-- `jge32 rD, rS, +off`: 44_jump.md R283. -/
def execJge32X (f : Fields) (s : State) : Result := jump32X cmpGe f s

/-- `jset32 rD, imm, +off`: 44_jump.md R284. -/
def execJset32K (f : Fields) (s : State) : Result := jump32K cmpSet f s

/-- `jset32 rD, rS, +off`: 44_jump.md R285. -/
def execJset32X (f : Fields) (s : State) : Result := jump32X cmpSet f s

/-- `jne32 rD, imm, +off`: 44_jump.md R286. -/
def execJne32K (f : Fields) (s : State) : Result := jump32K cmpNe f s

/-- `jne32 rD, rS, +off`: 44_jump.md R287. -/
def execJne32X (f : Fields) (s : State) : Result := jump32X cmpNe f s

/-- `jsgt32 rD, imm, +off`: 44_jump.md R288. -/
def execJsgt32K (f : Fields) (s : State) : Result := jump32K cmpSgt f s

/-- `jsgt32 rD, rS, +off`: 44_jump.md R289. -/
def execJsgt32X (f : Fields) (s : State) : Result := jump32X cmpSgt f s

/-- `jsge32 rD, imm, +off`: 44_jump.md R290. -/
def execJsge32K (f : Fields) (s : State) : Result := jump32K cmpSge f s

/-- `jsge32 rD, rS, +off`: 44_jump.md R291. -/
def execJsge32X (f : Fields) (s : State) : Result := jump32X cmpSge f s

/-- `jlt32 rD, imm, +off`: 44_jump.md R292. -/
def execJlt32K (f : Fields) (s : State) : Result := jump32K cmpLt f s

/-- `jlt32 rD, rS, +off`: 44_jump.md R293. -/
def execJlt32X (f : Fields) (s : State) : Result := jump32X cmpLt f s

/-- `jle32 rD, imm, +off`: 44_jump.md R294. -/
def execJle32K (f : Fields) (s : State) : Result := jump32K cmpLe f s

/-- `jle32 rD, rS, +off`: 44_jump.md R295. -/
def execJle32X (f : Fields) (s : State) : Result := jump32X cmpLe f s

/-- `jslt32 rD, imm, +off`: 44_jump.md R296. -/
def execJslt32K (f : Fields) (s : State) : Result := jump32K cmpSlt f s

/-- `jslt32 rD, rS, +off`: 44_jump.md R297. -/
def execJslt32X (f : Fields) (s : State) : Result := jump32X cmpSlt f s

/-- `jsle32 rD, imm, +off`: 44_jump.md R298. -/
def execJsle32K (f : Fields) (s : State) : Result := jump32K cmpSle f s

/-- `jsle32 rD, rS, +off`: 44_jump.md R299. -/
def execJsle32X (f : Fields) (s : State) : Result := jump32X cmpSle f s

end Sys2Proof.Machine
end

