-- ==== Sys2Proof/Machine/Legacy.lean ====
section
/-! DEFINITION. The named and unsupported opcodes: their effect is to raise UnsupportedOpcode (43_load_store.md R224 to R231). -/

namespace Sys2Proof.Machine

/-- `ldabsw`: 43_load_store.md R224. -/
def execLdabsw (_f : Fields) (s : State) : Result := raise s .unsupportedOpcode

/-- `ldabsh`: 43_load_store.md R225. -/
def execLdabsh (_f : Fields) (s : State) : Result := raise s .unsupportedOpcode

/-- `ldabsb`: 43_load_store.md R226. -/
def execLdabsb (_f : Fields) (s : State) : Result := raise s .unsupportedOpcode

/-- `ldindw`: 43_load_store.md R227. -/
def execLdindw (_f : Fields) (s : State) : Result := raise s .unsupportedOpcode

/-- `ldindh`: 43_load_store.md R228. -/
def execLdindh (_f : Fields) (s : State) : Result := raise s .unsupportedOpcode

/-- `ldindb`: 43_load_store.md R229. -/
def execLdindb (_f : Fields) (s : State) : Result := raise s .unsupportedOpcode

/-- `xaddw`: 43_load_store.md R230. -/
def execXaddw (_f : Fields) (s : State) : Result := raise s .unsupportedOpcode

/-- `xadddw`: 43_load_store.md R231. -/
def execXadddw (_f : Fields) (s : State) : Result := raise s .unsupportedOpcode

end Sys2Proof.Machine
end

