-- ==== Sys2Proof/Machine/LoadStore.lean ====
section
/-! DEFINITION. Loads, stores and the wide load (43_load_store.md R210 to R223). -/

namespace Sys2Proof.Machine

/-- `lddw rD, imm64`: 43_load_store.md R211. -/
def execLddw (f : Fields) (cont : BitVec 32) (s : State) : Result :=
  writeDst s f.dst (cont ++ f.imm) 2

/-- `ldxw rD, [rS+off]`: 43_load_store.md R212. -/
def execLdxw (f : Fields) (s : State) : Result := loadN 4 f s

/-- `ldxh rD, [rS+off]`: 43_load_store.md R213. -/
def execLdxh (f : Fields) (s : State) : Result := loadN 2 f s

/-- `ldxb rD, [rS+off]`: 43_load_store.md R214. -/
def execLdxb (f : Fields) (s : State) : Result := loadN 1 f s

/-- `ldxdw rD, [rS+off]`: 43_load_store.md R215. -/
def execLdxdw (f : Fields) (s : State) : Result := loadN 8 f s

/-- `stw [rD+off], imm`: 43_load_store.md R216. -/
def execStw (f : Fields) (s : State) : Result := storeImm 4 f s

/-- `sth [rD+off], imm`: 43_load_store.md R217. -/
def execSth (f : Fields) (s : State) : Result := storeImm 2 f s

/-- `stb [rD+off], imm`: 43_load_store.md R218. -/
def execStb (f : Fields) (s : State) : Result := storeImm 1 f s

/-- `stdw [rD+off], imm`: 43_load_store.md R219. -/
def execStdw (f : Fields) (s : State) : Result := storeImm 8 f s

/-- `stxw [rD+off], rS`: 43_load_store.md R220. -/
def execStxw (f : Fields) (s : State) : Result := storeReg 4 f s

/-- `stxh [rD+off], rS`: 43_load_store.md R221. -/
def execStxh (f : Fields) (s : State) : Result := storeReg 2 f s

/-- `stxb [rD+off], rS`: 43_load_store.md R222. -/
def execStxb (f : Fields) (s : State) : Result := storeReg 1 f s

/-- `stxdw [rD+off], rS`: 43_load_store.md R223. -/
def execStxdw (f : Fields) (s : State) : Result := storeReg 8 f s

end Sys2Proof.Machine
end

