-- ==== Sys2Proof/Machine/Dispatch.lean ====
section
/-! DEFINITION. The dispatch by instruction (45_fetch_execute.md R322 (3)): one arm per constructor. -/

namespace Sys2Proof.Machine

def exec (i : Instr) (s : State) : Host.Outcome State Fault Refusal :=
  match i with
  | .add64K f => Sys2Proof.Machine.execAdd64K f s
  | .add64X f => Sys2Proof.Machine.execAdd64X f s
  | .sub64K f => Sys2Proof.Machine.execSub64K f s
  | .sub64X f => Sys2Proof.Machine.execSub64X f s
  | .mul64K f => Sys2Proof.Machine.execMul64K f s
  | .mul64X f => Sys2Proof.Machine.execMul64X f s
  | .div64K f => Sys2Proof.Machine.execDiv64K f s
  | .div64X f => Sys2Proof.Machine.execDiv64X f s
  | .or64K f => Sys2Proof.Machine.execOr64K f s
  | .or64X f => Sys2Proof.Machine.execOr64X f s
  | .and64K f => Sys2Proof.Machine.execAnd64K f s
  | .and64X f => Sys2Proof.Machine.execAnd64X f s
  | .lsh64K f => Sys2Proof.Machine.execLsh64K f s
  | .lsh64X f => Sys2Proof.Machine.execLsh64X f s
  | .rsh64K f => Sys2Proof.Machine.execRsh64K f s
  | .rsh64X f => Sys2Proof.Machine.execRsh64X f s
  | .mod64K f => Sys2Proof.Machine.execMod64K f s
  | .mod64X f => Sys2Proof.Machine.execMod64X f s
  | .xor64K f => Sys2Proof.Machine.execXor64K f s
  | .xor64X f => Sys2Proof.Machine.execXor64X f s
  | .mov64K f => Sys2Proof.Machine.execMov64K f s
  | .mov64X f => Sys2Proof.Machine.execMov64X f s
  | .arsh64K f => Sys2Proof.Machine.execArsh64K f s
  | .arsh64X f => Sys2Proof.Machine.execArsh64X f s
  | .neg64 f => Sys2Proof.Machine.execNeg64 f s
  | .add32K f => Sys2Proof.Machine.execAdd32K f s
  | .add32X f => Sys2Proof.Machine.execAdd32X f s
  | .sub32K f => Sys2Proof.Machine.execSub32K f s
  | .sub32X f => Sys2Proof.Machine.execSub32X f s
  | .mul32K f => Sys2Proof.Machine.execMul32K f s
  | .mul32X f => Sys2Proof.Machine.execMul32X f s
  | .div32K f => Sys2Proof.Machine.execDiv32K f s
  | .div32X f => Sys2Proof.Machine.execDiv32X f s
  | .or32K f => Sys2Proof.Machine.execOr32K f s
  | .or32X f => Sys2Proof.Machine.execOr32X f s
  | .and32K f => Sys2Proof.Machine.execAnd32K f s
  | .and32X f => Sys2Proof.Machine.execAnd32X f s
  | .lsh32K f => Sys2Proof.Machine.execLsh32K f s
  | .lsh32X f => Sys2Proof.Machine.execLsh32X f s
  | .rsh32K f => Sys2Proof.Machine.execRsh32K f s
  | .rsh32X f => Sys2Proof.Machine.execRsh32X f s
  | .mod32K f => Sys2Proof.Machine.execMod32K f s
  | .mod32X f => Sys2Proof.Machine.execMod32X f s
  | .xor32K f => Sys2Proof.Machine.execXor32K f s
  | .xor32X f => Sys2Proof.Machine.execXor32X f s
  | .mov32K f => Sys2Proof.Machine.execMov32K f s
  | .mov32X f => Sys2Proof.Machine.execMov32X f s
  | .arsh32K f => Sys2Proof.Machine.execArsh32K f s
  | .arsh32X f => Sys2Proof.Machine.execArsh32X f s
  | .neg32 f => Sys2Proof.Machine.execNeg32 f s
  | .le f cont => Sys2Proof.Machine.execLe f cont s
  | .be f cont => Sys2Proof.Machine.execBe f cont s
  | .lddw f cont => Sys2Proof.Machine.execLddw f cont s
  | .ldxw f => Sys2Proof.Machine.execLdxw f s
  | .ldxh f => Sys2Proof.Machine.execLdxh f s
  | .ldxb f => Sys2Proof.Machine.execLdxb f s
  | .ldxdw f => Sys2Proof.Machine.execLdxdw f s
  | .stw f => Sys2Proof.Machine.execStw f s
  | .sth f => Sys2Proof.Machine.execSth f s
  | .stb f => Sys2Proof.Machine.execStb f s
  | .stdw f => Sys2Proof.Machine.execStdw f s
  | .stxw f => Sys2Proof.Machine.execStxw f s
  | .stxh f => Sys2Proof.Machine.execStxh f s
  | .stxb f => Sys2Proof.Machine.execStxb f s
  | .stxdw f => Sys2Proof.Machine.execStxdw f s
  | .ldabsw f => Sys2Proof.Machine.execLdabsw f s
  | .ldabsh f => Sys2Proof.Machine.execLdabsh f s
  | .ldabsb f => Sys2Proof.Machine.execLdabsb f s
  | .ldindw f => Sys2Proof.Machine.execLdindw f s
  | .ldindh f => Sys2Proof.Machine.execLdindh f s
  | .ldindb f => Sys2Proof.Machine.execLdindb f s
  | .xaddw f => Sys2Proof.Machine.execXaddw f s
  | .xadddw f => Sys2Proof.Machine.execXadddw f s
  | .ja f => Sys2Proof.Machine.execJa f s
  | .jeqK f => Sys2Proof.Machine.execJeqK f s
  | .jeqX f => Sys2Proof.Machine.execJeqX f s
  | .jgtK f => Sys2Proof.Machine.execJgtK f s
  | .jgtX f => Sys2Proof.Machine.execJgtX f s
  | .jgeK f => Sys2Proof.Machine.execJgeK f s
  | .jgeX f => Sys2Proof.Machine.execJgeX f s
  | .jsetK f => Sys2Proof.Machine.execJsetK f s
  | .jsetX f => Sys2Proof.Machine.execJsetX f s
  | .jneK f => Sys2Proof.Machine.execJneK f s
  | .jneX f => Sys2Proof.Machine.execJneX f s
  | .jsgtK f => Sys2Proof.Machine.execJsgtK f s
  | .jsgtX f => Sys2Proof.Machine.execJsgtX f s
  | .jsgeK f => Sys2Proof.Machine.execJsgeK f s
  | .jsgeX f => Sys2Proof.Machine.execJsgeX f s
  | .jltK f => Sys2Proof.Machine.execJltK f s
  | .jltX f => Sys2Proof.Machine.execJltX f s
  | .jleK f => Sys2Proof.Machine.execJleK f s
  | .jleX f => Sys2Proof.Machine.execJleX f s
  | .jsltK f => Sys2Proof.Machine.execJsltK f s
  | .jsltX f => Sys2Proof.Machine.execJsltX f s
  | .jsleK f => Sys2Proof.Machine.execJsleK f s
  | .jsleX f => Sys2Proof.Machine.execJsleX f s
  | .jeq32K f => Sys2Proof.Machine.execJeq32K f s
  | .jeq32X f => Sys2Proof.Machine.execJeq32X f s
  | .jgt32K f => Sys2Proof.Machine.execJgt32K f s
  | .jgt32X f => Sys2Proof.Machine.execJgt32X f s
  | .jge32K f => Sys2Proof.Machine.execJge32K f s
  | .jge32X f => Sys2Proof.Machine.execJge32X f s
  | .jset32K f => Sys2Proof.Machine.execJset32K f s
  | .jset32X f => Sys2Proof.Machine.execJset32X f s
  | .jne32K f => Sys2Proof.Machine.execJne32K f s
  | .jne32X f => Sys2Proof.Machine.execJne32X f s
  | .jsgt32K f => Sys2Proof.Machine.execJsgt32K f s
  | .jsgt32X f => Sys2Proof.Machine.execJsgt32X f s
  | .jsge32K f => Sys2Proof.Machine.execJsge32K f s
  | .jsge32X f => Sys2Proof.Machine.execJsge32X f s
  | .jlt32K f => Sys2Proof.Machine.execJlt32K f s
  | .jlt32X f => Sys2Proof.Machine.execJlt32X f s
  | .jle32K f => Sys2Proof.Machine.execJle32K f s
  | .jle32X f => Sys2Proof.Machine.execJle32X f s
  | .jslt32K f => Sys2Proof.Machine.execJslt32K f s
  | .jslt32X f => Sys2Proof.Machine.execJslt32X f s
  | .jsle32K f => Sys2Proof.Machine.execJsle32K f s
  | .jsle32X f => Sys2Proof.Machine.execJsle32X f s
  | .call f => Sys2Proof.Machine.execCall f s
  | .exit f => Sys2Proof.Machine.execExit f s

end Sys2Proof.Machine
end

