-- ==== Sys2Proof/Machine/Step.lean ====
section
/-! DEFINITION. The step of the core (45_fetch_execute.md R322, R326, R327). -/

namespace Sys2Proof.Machine

/-- One `step` event. Running: fetch and decode at `pc`, then the instruction's meaning, or the decoder's fault.
Exited or Faulted: nothing changes (R327). -/
def step (s : State) : Host.Outcome State Fault Refusal :=
  match s.status with
  | .running =>
    match s.fetchDecode with
    | .instr i => exec i s
    | .fault k => raise s k
  | .exited | .faulted => .next s

/-- A table word placed where the next step fetches it, at byte `8*pc` of PROG (log 5). In a Running state with
`pc >= 0` only PROG changes; a state that could not fetch (a terminal one, or one with a negative `pc`) is made to. -/
def State.withFetchWord (s : State) (nbits w : Nat) : State :=
  { s with
    pc := max s.pc 0, status := .running, fault := none,
    prog := patchProg s.prog (8 * (max s.pc 0).toNat) (tableWordBytes nbits w) }

end Sys2Proof.Machine
end

