-- ==== Sys2Proof/WellFormed.lean ====
section
/-! DEFINITION. Which instructions are well formed: what an encoding of a word that spells an operation can hold. -/

namespace Sys2Proof

/-- Both register nibbles name a register, used or not (40_decoder.md R118). -/
def Fields.wf (f : Fields) : Bool := decide (f.dst.toNat ≤ 10) && decide (f.src.toNat ≤ 10)

/-- A byte swap's width is 16, 32 or 64 (42_alu32.md R196 (b)), and its continuation immediate is 0: the one-word
widths have no continuation word, and for the width 64 it must be all zero (R196 (c)). -/
def Instr.widthWf (i : Instr) : Bool :=
  match i.format with
  | .swap => (i.fields.imm == 16#32 || i.fields.imm == 32#32 || i.fields.imm == 64#32) && i.cont == 0#32
  | .aluK | .aluX | .aluU | .lddw | .ldx | .st | .stx | .ldabs | .ldind | .xadd | .ja | .jccK | .jccX | .call
  | .exit => true

/-- A well-formed instruction. -/
def Instr.wf (i : Instr) : Bool := i.fields.wf && i.widthWf

/-- Whether the core gives the instruction an operation: the eight named opcodes of 43_load_store.md R224 to R231
have none (30_encoding.md R95 (b)). -/
def Instr.supported (i : Instr) : Bool :=
  match i.format with
  | .ldabs | .ldind | .xadd => false
  | .aluK | .aluX | .aluU | .swap | .lddw | .ldx | .st | .stx | .ja | .jccK | .jccX | .call | .exit => true

end Sys2Proof
end

