-- ==== Sys2Proof/Safety.lean ====
section
/-! DEFINITION. The terms in which claims are stated: runs, the machine's invariant, what an instruction may touch. -/

namespace Sys2Proof.Machine

/-- The state after one step; a step always answers one (there is no stop), the last arms are never taken. -/
def State.stepped (s : State) : State :=
  match step s with
  | .next t => t
  | .fault _ => s
  | .refused _ => s

/-- The state after `n` steps (45_fetch_execute.md R329). -/
def State.after : Nat → State → State
  | 0, s => s
  | n + 1, s => State.after n s.stepped

/-- How many of `n` steps run or fault an instruction: none once the run has ended (R329). -/
def State.stepsTaken : Nat → State → Nat
  | 0, _ => 0
  | n + 1, s => if s.status = .running then State.stepsTaken n s.stepped + 1 else 0

/-- `Run(PROG, BYTE_ORDER, HELPERS, INIT_REGS, INIT_STACK)` with the fuel bound `n` (R329): reset, then at most `n`
steps. A step of an ended run changes nothing. -/
def Inputs.run (inp : Inputs) (n : Nat) : State := (State.resetWith inp).after n

/-- The invariant of the core: the frame pointer holds STACK_SIZE (10_state.md R25), the stack has its canonical form,
there is a fault record exactly in Faulted (R34), and it names the pc and the fetched bytes of the state it was
taken in, which both stay (60_exceptions.md R349 to R351). -/
abbrev Inv (s : State) : Prop :=
  s.reg 10#4 = 512#64 ∧ s.stack.wf = true ∧ s.fault.isSome = (s.status == .faulted) ∧
    (s.fault.all fun r => r.pc == s.pc && r.raw == s.rawBytes) = true

/-- The range a program counter needs (10_state.md R26). -/
abbrev PcInRange (s : State) : Prop :=
  -32768 ≤ s.pc ∧ s.pc ≤ (s.prog.length / 8 : Nat) + 32767

end Sys2Proof.Machine

namespace Sys2Proof

/-- Whether the format writes `x[dst]` (10_state.md R24, 60_exceptions.md R343). -/
def Instr.writesDst (i : Instr) : Bool :=
  match i.format with
  | .aluK | .aluX | .aluU | .swap | .lddw | .ldx => true
  | .st | .stx | .ldabs | .ldind | .xadd | .ja | .jccK | .jccX | .call | .exit => false

/-- Whether the format writes stack bytes (20_memory.md R58, R68). -/
def Instr.writesStack (i : Instr) : Bool :=
  match i.format with
  | .st | .stx | .call => true
  | .aluK | .aluX | .aluU | .swap | .lddw | .ldx | .ldabs | .ldind | .xadd | .ja | .jccK | .jccX | .exit => false

/-- Whether the format reads stack bytes (20_memory.md R58, R68). -/
def Instr.readsStack (i : Instr) : Bool :=
  match i.format with
  | .ldx | .call => true
  | .aluK | .aluX | .aluU | .swap | .lddw | .st | .stx | .ldabs | .ldind | .xadd | .ja | .jccK | .jccX | .exit =>
    false

/-- Whether the format accesses the stack at an effective address (60_exceptions.md R344). -/
def Instr.accessesStack (i : Instr) : Bool :=
  match i.format with
  | .ldx | .st | .stx => true
  | .aluK | .aluX | .aluU | .swap | .lddw | .ldabs | .ldind | .xadd | .ja | .jccK | .jccX | .call | .exit => false

end Sys2Proof
end

