-- ==== Sys2Proof/Certificates/Slice0/Obligations.lean ====
section
/-! DEFINITION. The statements about the model, for the provers, and the words they are written in. Arithmetic is
written here over `Nat` and `Int`, as the pseudocode of the spec writes it, not with the operations of the model. -/

namespace Sys2Proof.Claims

open Sys2Proof.Machine

/-! ## Values -/

/-- `sext_64(imm)` (00_scope.md R7). -/
def sext (v : BitVec 32) : Word := BitVec.ofInt 64 v.toInt

/-- `x[i][31:0]` (00_scope.md R6). -/
def low (v : Word) : BitVec 32 := BitVec.ofNat 32 (v.toNat % 2 ^ 32)

/-- The weight of byte `k` of `n` in the byte order `o`: the exponent of 256 (00_scope.md R8). -/
def weight (o : ByteOrder) (n k : Nat) : Nat :=
  match o with
  | .le => k
  | .be => n - 1 - k

/-- `compose` of the `n` bytes `b 0` to `b (n - 1)` (00_scope.md R8). -/
def valueOf (o : ByteOrder) (n : Nat) (b : Nat → Byte) : Nat :=
  ∑ k ∈ Finset.range n, (b k).toNat * 256 ^ weight o n k

/-- Byte `k` of `split(v, n)` (00_scope.md R8). -/
def byteOf (o : ByteOrder) (n v k : Nat) : Byte := BitVec.ofNat 8 (v / 256 ^ weight o n k)

/-- The `n` low bytes of `v`, reversed (00_scope.md R8, `bswap`). -/
def reversed (n v : Nat) : Nat := ∑ k ∈ Finset.range n, v / 256 ^ k % 256 * 256 ^ (n - 1 - k)

/-! ## Outcomes -/

/-- The state after fault entry (60_exceptions.md R350). -/
def faulted (s : State) (k : FaultKind) : State :=
  { s with status := .faulted, fault := some ⟨k, s.pc, s.rawBytes⟩ }

/-- `s` with `x[d]` set to `v` and `pc` moved by `n` words; nothing else differs. -/
def written (s : State) (d : RegId) (v : Word) (n : Int) : State :=
  { s with regs := s.regs.setIfInBounds d.toNat v, pc := s.pc + n }

/-- The result of an instruction whose last action is `x[dst] <- v` (10_state.md R23): the write and the advance for
`dst` 0 to 9, FrameRegisterWriteViolation for 10, InvalidRegister above. -/
def WritesDst (i : Instr) (s : State) (v : Word) (n : Int) : Prop :=
  (i.fields.dst.toNat < 10 → exec i s = .next (written s i.fields.dst v n)) ∧
  (i.fields.dst.toNat = 10 → exec i s = .next (faulted s .frameRegisterWriteViolation)) ∧
  (10 < i.fields.dst.toNat → exec i s = .next (faulted s .invalidRegister))

/-- The two 64-bit forms of an ALU operation, in every register form (41_alu64.md R130). -/
def Alu64 (k x : Fields → Instr) (op : Word → Word → Word) : Prop :=
  ∀ (f : Fields) (s : State),
    WritesDst (k f) s (op (s.reg f.dst) (sext f.imm)) 1 ∧
    (f.src.toNat ≤ 10 → WritesDst (x f) s (op (s.reg f.dst) (s.reg f.src)) 1) ∧
    (10 < f.src.toNat → exec (x f) s = .next (faulted s .invalidRegister))

/-- The two 32-bit forms: low halves in, the result zero-extended (42_alu32.md R170). -/
def Alu32 (k x : Fields → Instr) (op : BitVec 32 → BitVec 32 → BitVec 32) : Prop :=
  ∀ (f : Fields) (s : State),
    WritesDst (k f) s (BitVec.ofNat 64 (op (low (s.reg f.dst)) f.imm).toNat) 1 ∧
    (f.src.toNat ≤ 10 →
      WritesDst (x f) s (BitVec.ofNat 64 (op (low (s.reg f.dst)) (low (s.reg f.src))).toNat) 1) ∧
    (10 < f.src.toNat → exec (x f) s = .next (faulted s .invalidRegister))

/-- `neg`: one operand. -/
def Neg (i : Fields → Instr) (op : Word → Word) : Prop :=
  ∀ (f : Fields) (s : State), WritesDst (i f) s (op (s.reg f.dst)) 1

/-- Where a conditional jump goes (44_jump.md R250): only `pc` changes. -/
def jumped (s : State) (f : Fields) (taken : Bool) : State :=
  { s with pc := if taken then s.pc + 1 + f.off.toInt else s.pc + 1 }

/-- The two forms of a 64-bit conditional jump (44_jump.md R251). -/
def Jump64 (k x : Fields → Instr) (cmp : Word → Word → Bool) : Prop :=
  ∀ (f : Fields) (s : State),
    (f.dst.toNat ≤ 10 → exec (k f) s = .next (jumped s f (cmp (s.reg f.dst) (sext f.imm)))) ∧
    (f.dst.toNat ≤ 10 → f.src.toNat ≤ 10 → exec (x f) s = .next (jumped s f (cmp (s.reg f.dst) (s.reg f.src)))) ∧
    (10 < f.dst.toNat → exec (k f) s = .next (faulted s .invalidRegister)) ∧
    (10 < f.dst.toNat ∨ 10 < f.src.toNat → exec (x f) s = .next (faulted s .invalidRegister))

/-- The two forms of a 32-bit conditional jump (44_jump.md R252). -/
def Jump32 (k x : Fields → Instr) (cmp : BitVec 32 → BitVec 32 → Bool) : Prop :=
  ∀ (f : Fields) (s : State),
    (f.dst.toNat ≤ 10 → exec (k f) s = .next (jumped s f (cmp (low (s.reg f.dst)) f.imm))) ∧
    (f.dst.toNat ≤ 10 → f.src.toNat ≤ 10 →
      exec (x f) s = .next (jumped s f (cmp (low (s.reg f.dst)) (low (s.reg f.src))))) ∧
    (10 < f.dst.toNat → exec (k f) s = .next (faulted s .invalidRegister)) ∧
    (10 < f.dst.toNat ∨ 10 < f.src.toNat → exec (x f) s = .next (faulted s .invalidRegister))

/-! ## Memory -/

/-- `EA` (20_memory.md R67), a mathematical integer: the expression that `effectiveAddress` computes. -/
def ea (s : State) (base : RegId) (f : Fields) : Int := effectiveAddress (s.reg base) f.off

/-- The bounds check (20_memory.md R55). -/
abbrev Inside (addr : Int) (n : Nat) : Prop := 0 ≤ addr ∧ addr + n ≤ 512

/-- A load of `n` bytes, in every form (43_load_store.md R210). -/
def Loads (ld : Fields → Instr) (n : Nat) : Prop :=
  ∀ (f : Fields) (s : State),
    (f.src.toNat ≤ 10 → Inside (ea s f.src f) n →
      WritesDst (ld f) s
        (BitVec.ofNat 64 (valueOf s.byteOrder n fun k => s.stack.read ((ea s f.src f).toNat + k))) 1) ∧
    (f.src.toNat ≤ 10 → ¬Inside (ea s f.src f) n → exec (ld f) s = .next (faulted s .memoryBoundsFault)) ∧
    (10 < f.src.toNat → exec (ld f) s = .next (faulted s .invalidRegister))

/-- `t` is `s` after a store of the low `n` bytes of `v` at `addr`: the bytes stored, every other byte as before, `pc`
one word on, and nothing else changed. -/
def Stored (s t : State) (addr : Int) (n : Nat) (v : Word) : Prop :=
  t = { s with stack := t.stack, pc := s.pc + 1 } ∧
  (∀ k, k < n → t.stack.read (addr.toNat + k) = byteOf s.byteOrder n v.toNat k) ∧
  (∀ a : Nat, (a : Int) < addr ∨ addr + n ≤ a → t.stack.read a = s.stack.read a)

/-- A store of `n` bytes of the immediate (43_load_store.md R216 to R219). -/
def StoresImm (st : Fields → Instr) (n : Nat) : Prop :=
  ∀ (f : Fields) (s : State), s.stack.wf = true →
    (f.dst.toNat ≤ 10 → Inside (ea s f.dst f) n →
      ∃ t, exec (st f) s = .next t ∧ Stored s t (ea s f.dst f) n (sext f.imm)) ∧
    (f.dst.toNat ≤ 10 → ¬Inside (ea s f.dst f) n → exec (st f) s = .next (faulted s .memoryBoundsFault)) ∧
    (10 < f.dst.toNat → exec (st f) s = .next (faulted s .invalidRegister))

/-- A store of `n` bytes of `x[src]` (43_load_store.md R220 to R223). -/
def StoresReg (st : Fields → Instr) (n : Nat) : Prop :=
  ∀ (f : Fields) (s : State), s.stack.wf = true →
    (f.dst.toNat ≤ 10 → f.src.toNat ≤ 10 → Inside (ea s f.dst f) n →
      ∃ t, exec (st f) s = .next t ∧ Stored s t (ea s f.dst f) n (s.reg f.src)) ∧
    (f.dst.toNat ≤ 10 → f.src.toNat ≤ 10 → ¬Inside (ea s f.dst f) n →
      exec (st f) s = .next (faulted s .memoryBoundsFault)) ∧
    (10 < f.dst.toNat ∨ 10 < f.src.toNat → exec (st f) s = .next (faulted s .invalidRegister))

/-- The four loads and their sizes (20_memory.md R58). -/
def loads : List ((Fields → Instr) × Nat) := [(.ldxb, 1), (.ldxh, 2), (.ldxw, 4), (.ldxdw, 8)]

/-- The eight stores and their sizes (20_memory.md R58). -/
def stores : List ((Fields → Instr) × Nat) :=
  [(.stb, 1), (.sth, 2), (.stw, 4), (.stdw, 8), (.stxb, 1), (.stxh, 2), (.stxw, 4), (.stxdw, 8)]

/-- The register stores and the loads of the same size. -/
def storeLoadPairs : List ((Fields → Instr) × (Fields → Instr) × Nat) :=
  [(.stxb, .ldxb, 1), (.stxh, .ldxh, 2), (.stxw, .ldxw, 4), (.stxdw, .ldxdw, 8)]

/-- How many bytes an instruction accesses at its effective address, and the base register's field
(43_load_store.md R210); none for an instruction that makes no such access. -/
def access : Instr → Option (RegId × Nat)
  | .ldxb f => some (f.src, 1)
  | .ldxh f => some (f.src, 2)
  | .ldxw f => some (f.src, 4)
  | .ldxdw f => some (f.src, 8)
  | .stb f | .stxb f => some (f.dst, 1)
  | .sth f | .stxh f => some (f.dst, 2)
  | .stw f | .stxw f => some (f.dst, 4)
  | .stdw f | .stxdw f => some (f.dst, 8)
  | _ => none

/-- The access of the instruction, if it makes one, is in bounds. -/
def AccessInside (i : Instr) (s : State) : Prop :=
  ∀ base n, access i = some (base, n) → Inside (ea s base i.fields) n

/-! ## The bytes at pc -/

/-- Byte `k` of PROG from `8*pc` on. -/
def progByte (s : State) (k : Nat) : Byte := s.prog.getD (8 * s.pc.toNat + k) 0#8

/-- The first word is not wholly inside PROG (60_exceptions.md R341 (a)). -/
abbrev FirstWordMissing (s : State) : Prop := s.pc < 0 ∨ (s.prog.length : Int) < 8 * s.pc + 8

/-- The continuation word is not wholly inside PROG (60_exceptions.md R341 (b)). -/
abbrev ContinuationMissing (s : State) : Prop := (s.prog.length : Int) < 8 * s.pc + 16

/-- One of the first four bytes of the continuation word is not zero (60_exceptions.md R341 (c)). -/
abbrev ContinuationMalformed (s : State) : Prop := ∃ k, k < 4 ∧ progByte s (8 + k) ≠ 0#8

/-- `imm` of the first word, as an unsigned number. -/
def immAt (s : State) : BitVec 32 := BitVec.ofNat 32 (valueOf s.byteOrder 4 fun k => progByte s (4 + k))

/-- The continuation word's immediate. -/
def contAt (s : State) : BitVec 32 := BitVec.ofNat 32 (valueOf s.byteOrder 4 fun k => progByte s (12 + k))

/-- The wide test on the first word (40_decoder.md R113). -/
abbrev WideAt (s : State) : Prop :=
  progByte s 0 = 0x18#8 ∨ ((progByte s 0 = 0xd4#8 ∨ progByte s 0 = 0xdc#8) ∧ 32 < (immAt s).toInt)

/-- The dst and src nibbles of byte 1 (30_encoding.md R82). -/
def nibblesAt (s : State) : Nat × Nat :=
  match s.byteOrder with
  | .le => ((progByte s 1).toNat % 16, (progByte s 1).toNat / 16)
  | .be => ((progByte s 1).toNat / 16, (progByte s 1).toNat % 16)

/-- The 120 named opcode bytes (30_encoding.md R94). -/
def namedOpcodes : List Nat :=
  [0x04, 0x05, 0x07, 0x0c, 0x0f, 0x14, 0x15, 0x16, 0x17, 0x18, 0x1c, 0x1d, 0x1e, 0x1f, 0x20] ++
  [0x24, 0x25, 0x26, 0x27, 0x28, 0x2c, 0x2d, 0x2e, 0x2f, 0x30, 0x34, 0x35, 0x36, 0x37, 0x3c] ++
  [0x3d, 0x3e, 0x3f, 0x40, 0x44, 0x45, 0x46, 0x47, 0x48, 0x4c, 0x4d, 0x4e, 0x4f, 0x50, 0x54] ++
  [0x55, 0x56, 0x57, 0x5c, 0x5d, 0x5e, 0x5f, 0x61, 0x62, 0x63, 0x64, 0x65, 0x66, 0x67, 0x69] ++
  [0x6a, 0x6b, 0x6c, 0x6d, 0x6e, 0x6f, 0x71, 0x72, 0x73, 0x74, 0x75, 0x76, 0x77, 0x79, 0x7a] ++
  [0x7b, 0x7c, 0x7d, 0x7e, 0x7f, 0x84, 0x85, 0x87, 0x94, 0x95, 0x97, 0x9c, 0x9f, 0xa4, 0xa5] ++
  [0xa6, 0xa7, 0xac, 0xad, 0xae, 0xaf, 0xb4, 0xb5, 0xb6, 0xb7, 0xbc, 0xbd, 0xbe, 0xbf, 0xc3] ++
  [0xc4, 0xc5, 0xc6, 0xc7, 0xcc, 0xcd, 0xce, 0xcf, 0xd4, 0xd5, 0xd6, 0xdb, 0xdc, 0xdd, 0xde]

/-- The eight named opcodes without an operation (30_encoding.md R95 (b)). -/
def unsupportedOpcodes : List Nat := [0x20, 0x28, 0x30, 0x40, 0x48, 0x50, 0xc3, 0xdb]

/-- The word at `pc` spells no operation: the four causes of 40_decoder.md R117. A byte swap's width is 16 or 32 in one
word, or 64 with a zero continuation immediate. -/
abbrev NoOperationAt (s : State) : Prop :=
  (progByte s 0).toNat ∉ namedOpcodes ∨ (progByte s 0).toNat ∈ unsupportedOpcodes ∨
  ((progByte s 0 = 0xd4#8 ∨ progByte s 0 = 0xdc#8) ∧
    ¬(immAt s = 16#32 ∨ immAt s = 32#32 ∨ (immAt s = 64#32 ∧ contAt s = 0#32))) ∨
  (progByte s 0 = 0x85#8 ∧ immAt s ∉ s.helperIds)

/-! ## Helpers -/

/-- What a helper is given of the register file (44_jump.md R276). -/
def argsOf (s : State) : HelperArgs := ⟨s.reg 1#4, s.reg 2#4, s.reg 3#4, s.reg 4#4, s.reg 5#4⟩

/-- The helper of the example of 44_jump.md R276: R0 becomes `x[1] + x[2]`, R1 to R5 any value, the stack is left. -/
def sumEffect : HelperEffect :=
  ⟨#v[.op .add (.arg .a1) (.arg .a2), .free 1, .free 2, .free 3, .free 4, .free 5], true, []⟩

/-! ## The bytes at pc, whole -/

/-- Every byte of PROG from `8*pc` on, at most `n` of them; none where `pc` is negative. -/
def bytesAt (s : State) (n : Nat) : List Byte := if s.pc < 0 then [] else (s.prog.drop (8 * s.pc.toNat)).take n

end Sys2Proof.Claims

open Sys2Proof Sys2Proof.Machine Sys2Proof.Claims

/-- The decoder reads the spec's own words: mov64 r1, 5 in both orders, stxh [r10-4], r1, the same bytes in big-endian
as another instruction, lddw r3 in both orders, be64 r1 and be16 r1, ja +3, call 7; and it answers the three decoder
faults on R122 (5), (8), (9) and (10). (40_decoder.md R122; 43_load_store.md; 44_jump.md) -/
def Obligations.SpecWordsDecode : Prop :=
  decode .le [] [0xbf#8, 0x01#8, 0#8, 0#8, 5#8, 0#8, 0#8, 0#8] = .instr (.mov64K ⟨1#4, 0#4, 0#16, 5#32⟩) ∧
  decode .be [] [0xbf#8, 0x10#8, 0#8, 0#8, 0#8, 0#8, 0#8, 5#8] = .instr (.mov64K ⟨1#4, 0#4, 0#16, 5#32⟩) ∧
  decode .le [] [0x6b#8, 0x1a#8, 0xfc#8, 0xff#8, 0#8, 0#8, 0#8, 0#8] = .instr (.stxh ⟨10#4, 1#4, -4#16, 0#32⟩) ∧
  decode .be [] [0x6b#8, 0x1a#8, 0xfc#8, 0xff#8, 0#8, 0#8, 0#8, 0#8] = .instr (.stxh ⟨1#4, 10#4, -769#16, 0#32⟩) ∧
  decode .le [] [0x18#8, 0x03#8, 0#8, 0#8, 0x88#8, 0x77#8, 0x66#8, 0x55#8, 0#8, 0#8, 0#8, 0#8, 0x44#8, 0x33#8, 0x22#8,
    0x11#8] = .instr (.lddw ⟨3#4, 0#4, 0#16, 0x55667788#32⟩ 0x11223344#32) ∧
  decode .be [] [0x18#8, 0x30#8, 0#8, 0#8, 0x55#8, 0x66#8, 0x77#8, 0x88#8, 0#8, 0#8, 0#8, 0#8, 0x11#8, 0x22#8, 0x33#8,
    0x44#8] = .instr (.lddw ⟨3#4, 0#4, 0#16, 0x55667788#32⟩ 0x11223344#32) ∧
  decode .le [] [0xdc#8, 0x01#8, 0#8, 0#8, 64#8, 0#8, 0#8, 0#8, 0#8, 0#8, 0#8, 0#8, 0#8, 0#8, 0#8, 0#8] =
    .instr (.be ⟨1#4, 0#4, 0#16, 64#32⟩ 0#32) ∧
  decode .le [] [0xdc#8, 0x01#8, 0#8, 0#8, 16#8, 0#8, 0#8, 0#8] = .instr (.be ⟨1#4, 0#4, 0#16, 16#32⟩ 0#32) ∧
  decode .be [] [0x05#8, 0#8, 0#8, 3#8, 0#8, 0#8, 0#8, 0#8] = .instr (.ja ⟨0#4, 0#4, 3#16, 0#32⟩) ∧
  decode .le [7#32] [0x85#8, 0#8, 0#8, 0#8, 7#8, 0#8, 0#8, 0#8] = .instr (.call ⟨0#4, 0#4, 0#16, 7#32⟩) ∧
  decode .le [] [0x18#8, 0x03#8, 0#8, 0#8, 0x88#8, 0x77#8, 0x66#8, 0x55#8, 0#8, 1#8, 0#8, 0#8, 0x44#8, 0x33#8, 0x22#8,
    0x11#8] = .fault .decodeFault ∧
  decode .le [] [0x07#8, 0xc1#8, 0#8, 0#8, 0#8, 0#8, 0#8, 0#8] = .fault .invalidRegister ∧
  decode .le [] [0#8, 0#8, 0#8, 0#8, 0#8, 0#8, 0#8, 0#8] = .fault .unsupportedOpcode ∧
  decode .le [] [0xbf#8, 0x01#8, 0#8, 0#8] = .fault .decodeFault

/-- Whatever the fields and the continuation immediate, an opcode byte names an instruction if and only if it is one of
the 120 values of R94 (of which there are 120), and it names an unsupported instruction if and only if it is one of
the eight of R95 (b). (30_encoding.md R94; 30_encoding.md R95) -/
def Obligations.OpcodeMapHas120Names : Prop :=
  namedOpcodes.length = 120 ∧
  (∀ (b : Byte) (f : Fields) (c : BitVec 32), (named b f c).isSome = true ↔ b.toNat ∈ namedOpcodes) ∧
  (∀ (b : Byte) (f : Fields) (c : BitVec 32) (i : Instr), named b f c = some i →
    (i.supported = false ↔ b.toNat ∈ unsupportedOpcodes))

/-- With LE, dst is bits 3:0 of byte 1 and src bits 7:4; with BE the reverse. So decoding one byte under the two orders
yields swapped pairs; 0xa2 is dst 2, src 10 with LE. Ids 11 to 15 name no register. (Rule R82.) -/
def Obligations.NibblesFlipWithByteOrder : Prop :=
  (∀ b : Byte, (dstNibble .le b).toNat = b.toNat % 16 ∧ (srcNibble .le b).toNat = b.toNat / 16 ∧
    (dstNibble .be b).toNat = b.toNat / 16 ∧ (srcNibble .be b).toNat = b.toNat % 16) ∧
  (∀ b : Byte, dstNibble .be b = srcNibble .le b ∧ srcNibble .be b = dstNibble .le b) ∧
  dstNibble .le 0xa2#8 = 2#4 ∧ srcNibble .le 0xa2#8 = 10#4 ∧ dstNibble .be 0xa2#8 = 10#4 ∧ srcNibble .be 0xa2#8 = 2#4 ∧
  (∀ (s : State) (r : RegId), 10 < r.toNat ↔ s.reg? r = none)

/-- off is bytes 2 and 3 in the configured byte order read as a signed 16-bit integer, in -32768 to 32767; imm is bytes
4 to 7 read as a signed 32-bit integer, in -2^31 to 2^31-1. Both orders are written out, with the examples of the
rule. (Rule R83.) -/
def Obligations.OffsetAndImmediateFields : Prop :=
  ∀ b1 b2 b3 b4 b5 b6 b7 : Byte,
    (Fields.ofBytes .le b1 b2 b3 b4 b5 b6 b7).off.toInt = Int.bmod (b2.toNat + 256 * b3.toNat) (2 ^ 16) ∧
    (Fields.ofBytes .be b1 b2 b3 b4 b5 b6 b7).off.toInt = Int.bmod (256 * b2.toNat + b3.toNat) (2 ^ 16) ∧
    (Fields.ofBytes .le b1 b2 b3 b4 b5 b6 b7).imm.toInt =
      Int.bmod (b4.toNat + 2 ^ 8 * b5.toNat + 2 ^ 16 * b6.toNat + 2 ^ 24 * b7.toNat) (2 ^ 32) ∧
    (Fields.ofBytes .be b1 b2 b3 b4 b5 b6 b7).imm.toInt =
      Int.bmod (2 ^ 24 * b4.toNat + 2 ^ 16 * b5.toNat + 2 ^ 8 * b6.toNat + b7.toNat) (2 ^ 32) ∧
    (∀ o, -32768 ≤ (Fields.ofBytes o b1 b2 b3 b4 b5 b6 b7).off.toInt ∧
      (Fields.ofBytes o b1 b2 b3 b4 b5 b6 b7).off.toInt ≤ 32767 ∧
      -2 ^ 31 ≤ (Fields.ofBytes o b1 b2 b3 b4 b5 b6 b7).imm.toInt ∧
      (Fields.ofBytes o b1 b2 b3 b4 b5 b6 b7).imm.toInt ≤ 2 ^ 31 - 1) ∧
    (Fields.ofBytes .le b1 0xfc#8 0xff#8 5#8 0#8 0#8 0#8).off.toInt = -4 ∧
    (Fields.ofBytes .be b1 0xff#8 0xfc#8 0#8 0#8 0#8 5#8).off.toInt = -4 ∧
    (Fields.ofBytes .le b1 0xfc#8 0xff#8 5#8 0#8 0#8 0#8).imm.toInt = 5 ∧
    (Fields.ofBytes .be b1 0xff#8 0xfc#8 0#8 0#8 0#8 5#8).imm.toInt = 5

/-- If the decoder answers an instruction, the fetched bytes begin with eight bytes b0 to b7; its opcode is b0, its dst
and src are the nibbles of b1 in the configured order, its offset the signed value of b2, b3 and its immediate the
signed value of b4 to b7. (Rule R112.) -/
def Obligations.DecodedFieldsComeFromTheFirstWord : Prop :=
  ∀ (o : ByteOrder) (helpers : List HelperId) (bytes : List Byte) (i : Instr), decode o helpers bytes = .instr i →
    ∃ b0 b1 b2 b3 b4 b5 b6 b7 rest, bytes = b0 :: b1 :: b2 :: b3 :: b4 :: b5 :: b6 :: b7 :: rest ∧
      i.opcode = b0 ∧
      (i.fields.dst.toNat, i.fields.src.toNat) =
        (match o with
          | .le => (b1.toNat % 16, b1.toNat / 16)
          | .be => (b1.toNat / 16, b1.toNat % 16)) ∧
      i.fields.off.toInt = Int.bmod (valueOf o 2 fun k => [b2, b3].getD k 0#8) (2 ^ 16) ∧
      i.fields.imm.toInt = Int.bmod (valueOf o 4 fun k => [b4, b5, b6, b7].getD k 0#8) (2 ^ 32)

/-- In Running, with a whole first word that is wide: if fewer than 16 bytes remain the step records DecodeFault at this
pc with the bytes that remain; if 16 remain and one of c0 to c3 is not zero it records DecodeFault at this pc with
the 16 bytes; if they are all zero the decoder does not answer DecodeFault, whatever c4 to c7 are. (Rule R114.) -/
def Obligations.ContinuationWordRules : Prop :=
  ∀ s : State, s.status = .running → ¬FirstWordMissing s → WideAt s →
    (ContinuationMissing s →
      step s = .next { s with status := .faulted, fault := some ⟨.decodeFault, s.pc, s.prog.drop (8 * s.pc.toNat)⟩ }) ∧
    (¬ContinuationMissing s → ContinuationMalformed s →
      step s = .next { s with
        status := .faulted, fault := some ⟨.decodeFault, s.pc, (s.prog.drop (8 * s.pc.toNat)).take 16⟩ }) ∧
    (¬ContinuationMissing s → ¬ContinuationMalformed s → s.fetchDecode ≠ .fault .decodeFault)

/-- When the instruction at pc decodes: if its first word is wide, imm64 is the continuation immediate times 2^32 plus
the first immediate, both unsigned in the configured order, and the length is 2 words; if not, imm64 is the sign-
extended immediate and the length is 1. (Rule R115.) -/
def Obligations.RecordImmediateAndLength : Prop :=
  ∀ (s : State) (i : Instr), s.fetchDecode = .instr i →
    (WideAt s → i.imm64.toNat = (valueOf s.byteOrder 4 fun k => progByte s (12 + k)) * 2 ^ 32 +
      (valueOf s.byteOrder 4 fun k => progByte s (4 + k)) ∧ i.len = 2) ∧
    (¬WideAt s → i.imm64 = sext (immAt s) ∧ i.len = 1)

/-- The decoder answers DecodeFault if and only if the first word is not wholly inside PROG (pc negative, or 8*pc + 8
above PROG_LEN), or the instruction is wide and its continuation word is not wholly inside PROG, or it is wide and
one of the first four bytes of that word is not zero. The bytes recorded are then those that exist from 8*pc, at
most 16. No instruction raises it at execution. (Rule R341.) -/
def Obligations.DecodeFaultInExactlyThreeCases : Prop :=
  (∀ s : State, s.fetchDecode = .fault .decodeFault ↔
    FirstWordMissing s ∨ (WideAt s ∧ ContinuationMissing s) ∨ (WideAt s ∧ ContinuationMalformed s)) ∧
  (∀ s : State, s.fetchDecode = .fault .decodeFault → s.rawBytes = bytesAt s 16) ∧
  (∀ (i : Instr) (s : State), s.status = .running → exec i s ≠ .next (faulted s .decodeFault))

/-- Where no DecodeFault applies: a word that spells no operation gives UnsupportedOpcode whatever its registers;
otherwise a nibble above 10, used or not, gives InvalidRegister; otherwise the decoder answers an instruction with
the word's opcode. The order is the spec's own decision D6. (40_decoder.md R117; 40_decoder.md R118; 40_decoder.md
R119; 60_exceptions.md R342; 60_exceptions.md R345) -/
def Obligations.DecoderChecksInOrder : Prop :=
  ∀ s : State,
    ¬(FirstWordMissing s ∨ (WideAt s ∧ ContinuationMissing s) ∨ (WideAt s ∧ ContinuationMalformed s)) →
    (NoOperationAt s → s.fetchDecode = .fault .unsupportedOpcode) ∧
    (¬NoOperationAt s → (10 < (nibblesAt s).1 ∨ 10 < (nibblesAt s).2) → s.fetchDecode = .fault .invalidRegister) ∧
    (¬NoOperationAt s → (nibblesAt s).1 ≤ 10 → (nibblesAt s).2 ≤ 10 →
      ∃ i, s.fetchDecode = .instr i ∧ i.opcode = progByte s 0)

/-- For every instruction whose continuation immediate is 0 unless it is wide, whatever its fields hold, reading its
encoding, followed by any bytes, gives that instruction. If it is well formed, supported and, for a call, its id is
a key of HELPERS, the whole decoder gives it. (30_encoding.md R99; 30_encoding.md R91; 40_decoder.md R110) -/
def Obligations.DecodeOfEncode : Prop :=
  (∀ (o : ByteOrder) (i : Instr) (rest : List Byte), (i.wide = false → i.cont = 0#32) →
    readInstr o (encode o i ++ rest) = .instr i) ∧
  (∀ (o : ByteOrder) (helpers : List HelperId) (i : Instr) (rest : List Byte), i.wf = true → i.supported = true →
    (i.format = .call → i.fields.imm ∈ helpers) → decode o helpers (encode o i ++ rest) = .instr i)

/-- If the decoder answers an instruction, encoding it gives the 8 or 16 bytes it was read from, for both byte orders,
so no bit of the encoding is dropped; and the instruction is well formed, supported and, if a call, its id is a key
of HELPERS. (30_encoding.md R99; 40_decoder.md R118; 40_decoder.md R120) -/
def Obligations.EncodeOfDecode : Prop :=
  ∀ (o : ByteOrder) (helpers : List HelperId) (bytes : List Byte) (i : Instr), decode o helpers bytes = .instr i →
    encode o i = bytes.take (8 * i.len) ∧ i.wf = true ∧ i.supported = true ∧
      (i.format = .call → i.fields.imm ∈ helpers)

/-- After reset with any inputs, in any state: pc is 0, STATUS is Running, x[10] is 512, x[0] to x[9] are INIT_REGS, the
stack is INIT_STACK, there is no fault record, and byte order, program and helper table are the inputs. The number
512 is decision D8; that x[0] to x[9] and the stack are inputs is D11. (10_state.md R39; 70_reset_and_hazards.md
R380; 70_reset_and_hazards.md R382) -/
def Obligations.ResetLeaves : Prop :=
  ∀ (inp : Inputs) (s : State),
    (State.resetEvent inp s).pc = 0 ∧ (State.resetEvent inp s).status = .running ∧
    (State.resetEvent inp s).reg 10#4 = 512#64 ∧
    (∀ r : RegId, r.toNat < 10 → some ((State.resetEvent inp s).reg r) = inp.initRegs[r.toNat]?) ∧
    (State.resetEvent inp s).stack = inp.initStack ∧ (State.resetEvent inp s).fault = none ∧
    (State.resetEvent inp s).byteOrder = inp.byteOrder ∧ (State.resetEvent inp s).prog = inp.prog ∧
    (State.resetEvent inp s).helpers = inp.helpers

/-- The invariant Inv (x[10] = 512; the stack is in its canonical form; there is a fault record exactly in Faulted, and
it names the state's pc and fetched bytes) holds of State.reset and after reset with any inputs whose INIT_STACK is
in canonical form. State.reset's own input values are the model's choice (logs 2 to 7). (10_state.md R25;
10_state.md R34; 10_state.md R39) -/
def Obligations.ResetMeetsTheInvariant : Prop :=
  Inv State.reset ∧ ∀ inp : Inputs, inp.initStack.wf = true → Inv (State.resetWith inp)

/-- In Running, if the (at most 16) bytes of PROG from 8*pc decode to an instruction i, the step is exec i at that
state, and nothing is added around it: the meaning itself moves pc. If the decoder answers a fault, the step records
it. (45_fetch_execute.md R322; 45_fetch_execute.md R325; 40_decoder.md R111) -/
def Obligations.StepRunsTheDecodedInstruction : Prop :=
  ∀ s : State, s.status = .running →
    (∀ i, decode s.byteOrder s.helperIds (bytesAt s 16) = .instr i → step s = exec i s) ∧
    (∀ k, decode s.byteOrder s.helperIds (bytesAt s 16) = .fault k → step s = .next (faulted s k))

/-- In Running with pc not negative, if PROG from 8*pc on begins with the encoding of a well-formed, supported
instruction (for a call, with a known id), the step is exec of that instruction at that state. (45_fetch_execute.md
R322; 30_encoding.md R99) -/
def Obligations.StepRunsTheEncodedInstruction : Prop :=
  ∀ (s : State) (i : Instr) (rest : List Byte), s.status = .running → 0 ≤ s.pc →
    s.prog.drop (8 * s.pc.toNat) = encode s.byteOrder i ++ rest → i.wf = true → i.supported = true →
    (i.format = .call → i.fields.imm ∈ s.helperIds) → step s = exec i s

/-- Reset leaves Running with pc 0, the frame pointer at 512 and every piece of state at its reset value. A Running
step: if the decoder faults with k, or execution raises k, the state becomes the faulted one, nothing else changing;
if the instruction is exit, STATUS becomes Exited and nothing else changes; otherwise the step has the effects of
the instruction and stays Running. Exited and Faulted steps change nothing. The number 512 is decision D8; that exit
keeps pc and that a step of an ended run changes nothing are decision D23. (45_fetch_execute.md R326;
45_fetch_execute.md R327; 70_reset_and_hazards.md R380; 44_jump.md R277) -/
def Obligations.StateMachineTransitions : Prop :=
  (∀ (inp : Inputs) (s : State), State.resetEvent inp s = State.resetWith inp ∧
    (State.resetEvent inp s).status = .running ∧ (State.resetEvent inp s).pc = 0 ∧
    (State.resetEvent inp s).reg 10#4 = 512#64) ∧
  (∀ (s : State) (k : FaultKind), s.status = .running → s.fetchDecode = .fault k → step s = .next (faulted s k)) ∧
  (∀ (s : State) (f : Fields), s.status = .running → s.fetchDecode = .instr (.exit f) →
    step s = .next { s with status := .exited }) ∧
  (∀ (s : State) (i : Instr), s.status = .running → s.fetchDecode = .instr i → i.format ≠ .exit →
    ∃ t, step s = .next t ∧ exec i s = .next t ∧ (t.status = .running ∨ ∃ k, t = faulted s k)) ∧
  (∀ s : State, s.status = .exited ∨ s.status = .faulted → step s = .next s)

/-- Raising K, from the decoder or from an instruction, makes FAULT the triple of K, the word index of the instruction
and its bytes, makes STATUS Faulted, and changes nothing else. The bytes are those that exist from 8*pc where fewer
than 8 do, 8 for a one-word instruction, and 16 for a wide one (fewer where the stream ends before). Every step that
enters Faulted is such an entry, and no later step changes anything. (Rule R350.) -/
def Obligations.FaultEntryWritesTheRecordOnly : Prop :=
  (∀ (s : State) (k : FaultKind), raise s k = .next { s with status := .faulted, fault := some ⟨k, s.pc, s.rawBytes⟩ }) ∧
  (∀ s : State, FirstWordMissing s → s.rawBytes = bytesAt s 8) ∧
  (∀ s : State, ¬FirstWordMissing s → ¬WideAt s → s.rawBytes = bytesAt s 8 ∧ s.rawBytes.length = 8) ∧
  (∀ s : State, ¬FirstWordMissing s → WideAt s →
    s.rawBytes = bytesAt s 16 ∧ (¬ContinuationMissing s → s.rawBytes.length = 16)) ∧
  (∀ (s : State) (k : FaultKind), s.status = .running → s.fetchDecode = .fault k → step s = raise s k) ∧
  (∀ (i : Instr) (s t : State), s.status = .running → exec i s = .next t → t.status = .faulted →
    ∃ k, exec i s = raise s k) ∧
  (∀ (s : State) (k : FaultKind) (n : Nat), (faulted s k).after n = faulted s k)

/-- If a Running step leads to Faulted, every register, the whole stack, pc, byte order, program, helper table and draw
count (the model's own field, log 7) are what they were, and the record names the pc the state still has. (Decision
D7.) (60_exceptions.md R349; 45_fetch_execute.md R323) -/
def Obligations.FaultsArePrecise : Prop :=
  ∀ s t : State, s.status = .running → step s = .next t → t.status = .faulted →
    t.regs = s.regs ∧ t.stack = s.stack ∧ t.pc = s.pc ∧ t.byteOrder = s.byteOrder ∧ t.prog = s.prog ∧
      t.helpers = s.helpers ∧ t.draws = s.draws ∧ ∃ k, t.fault = some ⟨k, s.pc, s.rawBytes⟩

/-- After a fault no number of steps changes anything. No instruction clears the record or turns a terminal STATUS into
Running, and what an instruction does to registers, stack, pc and the draw count does not depend on STATUS or FAULT.
Reset leaves Faulted, clears FAULT and starts a new run. (The draw count is the model's own field, log 7, a design
choice that no rule gives.) (60_exceptions.md R351) -/
def Obligations.NoReturnFromAFault : Prop :=
  (∀ (s : State) (n : Nat), s.status = .faulted → s.after n = s) ∧
  (∀ (i : Instr) (s t : State), exec i s = .next t →
    (s.status ≠ .running → t.status ≠ .running) ∧ (s.fault.isSome = true → t.fault.isSome = true)) ∧
  (∀ (i : Instr) (s t : State) (st : Status) (fl : Option FaultRecord), exec i s = .next t →
    ∃ t', exec i { s with status := st, fault := fl } = .next t' ∧ t'.regs = t.regs ∧ t'.stack = t.stack ∧
      t'.pc = t.pc ∧ t'.draws = t.draws) ∧
  (∀ (inp : Inputs) (s : State), s.status = .faulted →
    (State.resetEvent inp s).status = .running ∧ (State.resetEvent inp s).fault = none)

/-- In a state that is not Running, no number of steps changes anything. A Running step leads to Exited only if the
decoded instruction is exit, and then everything but STATUS is as before, x[0] and pc included. (Decision D23.)
(45_fetch_execute.md R327; 45_fetch_execute.md R328) -/
def Obligations.TerminalStatesNeverChange : Prop :=
  (∀ (s : State) (n : Nat), s.status ≠ .running → s.after n = s) ∧
  (∀ s t : State, s.status = .running → step s = .next t → t.status = .exited →
    (∃ f, s.fetchDecode = .instr (.exit f)) ∧ t = { s with status := .exited })

/-- In Running, with src at most 10, an instruction raises FrameRegisterWriteViolation if and only if its dst is 10, it
writes x[dst] (every ALU64 and ALU32 instruction, le and be, lddw, the four ldx), and nothing faults first: a byte
swap has a width it knows and a load is in bounds. So the value written never matters, and stores, jumps, call and
exit never raise it. Register 10 keeps its value. (Rule R343.) -/
def Obligations.FrameRegisterWriteViolationExactly : Prop :=
  (∀ (i : Instr) (s : State), s.status = .running → i.fields.src.toNat ≤ 10 →
    (exec i s = .next (faulted s .frameRegisterWriteViolation) ↔
      i.fields.dst.toNat = 10 ∧ i.writesDst = true ∧
        (i.format = .swap → i.imm64.toNat = 16 ∨ i.imm64.toNat = 32 ∨ i.imm64.toNat = 64) ∧ AccessInside i s)) ∧
  (∀ s : State, (faulted s .frameRegisterWriteViolation).reg 10#4 = s.reg 10#4) ∧
  (∀ i : Instr, i.writesDst = true ↔ i.format = .aluK ∨ i.format = .aluX ∨ i.format = .aluU ∨ i.format = .swap ∨
    i.format = .lddw ∨ i.format = .ldx)

/-- In Running, with both register ids at most 10, an instruction raises MemoryBoundsFault if and only if it is one of
the twelve ldx, st and stx and its access is not wholly inside: not (0 <= EA and EA + n <= 512), EA the unbounded
integer. Then no byte of the stack and no register changes, also where the first bytes lie inside. (Rule R344.) -/
def Obligations.MemoryBoundsFaultExactly : Prop :=
  (∀ (i : Instr) (s : State), s.status = .running → i.fields.dst.toNat ≤ 10 → i.fields.src.toNat ≤ 10 →
    (exec i s = .next (faulted s .memoryBoundsFault) ↔
      ∃ base n, access i = some (base, n) ∧
        ¬(0 ≤ ((s.reg base).toNat : Int) + i.fields.off.toInt ∧
          ((s.reg base).toNat : Int) + i.fields.off.toInt + n ≤ 512))) ∧
  (∀ i : Instr, (access i).isSome = true ↔ i.format = .ldx ∨ i.format = .st ∨ i.format = .stx) ∧
  (∀ s : State, (faulted s .memoryBoundsFault).stack = s.stack ∧ (faulted s .memoryBoundsFault).regs = s.regs)

/-- For an id up to 10 the read passes on the pattern of that register and the state as it is; for an id above 10 it
raises InvalidRegister. Register 10 is read like the others: in Running, an instruction whose two register ids are
at most 10 never raises InvalidRegister. (Rule R22.) -/
def Obligations.RegisterReads : Prop :=
  (∀ (s : State) (r : RegId) (k : Word → Result) (h : r.toNat < 11), withReg s r k = k s.regs[r.toNat]) ∧
  (∀ (s : State) (r : RegId) (k : Word → Result), 11 ≤ r.toNat →
    withReg s r k = .next (faulted s .invalidRegister)) ∧
  (∀ (i : Instr) (s : State), s.status = .running → i.fields.dst.toNat ≤ 10 → i.fields.src.toNat ≤ 10 →
    exec i s ≠ .next (faulted s .invalidRegister))

/-- Whatever exec answers: a register that is not the dst of a writing instruction, and that is not one of R0 to R5 for
a call, holds what it held. So stores, jumps, exit and the unsupported opcodes change no register at all, and no
instruction changes R10. (10_state.md R24; 10_state.md R21; 60_exceptions.md R343) -/
def Obligations.RegistersOthersKeep : Prop :=
  ∀ (i : Instr) (s t : State) (r : RegId), exec i s = .next t →
    (¬(i.writesDst = true ∧ i.fields.dst = r) → ¬(i.format = .call ∧ r.toNat ≤ 5) → t.reg r = s.reg r) ∧
    (10 ≤ r.toNat → t.reg r = s.reg r)

/-- Whatever exec answers: program, byte order and helper table are unchanged; an instruction that is no store and no
call leaves every byte of the stack; a store leaves every byte outside its access; STATUS changes only by exit or a
fault. That only a call moves the draw count is said of the model's own field (log 7, a design choice), not of a
rule. (20_memory.md R58; 10_state.md R30; 10_state.md R32; 60_exceptions.md R354) -/
def Obligations.StateOthersKeep : Prop :=
  ∀ (i : Instr) (s t : State), exec i s = .next t →
    t.prog = s.prog ∧ t.byteOrder = s.byteOrder ∧ t.helpers = s.helpers ∧
    (i.format ≠ .st → i.format ≠ .stx → i.format ≠ .call → t.stack = s.stack) ∧
    (∀ base n, access i = some (base, n) →
      ∀ a : Nat, (a : Int) < ea s base i.fields ∨ ea s base i.fields + n ≤ a → t.stack.read a = s.stack.read a) ∧
    (i.format ≠ .call → t.draws = s.draws) ∧
    (i.format ≠ .exit → t.status = s.status ∨ t.status = .faulted)

/-- After any number of steps from any state, the program, the byte order and the helper table are what they were.
(10_state.md R30; 10_state.md R32; 20_memory.md R65; 45_fetch_execute.md R321) -/
def Obligations.InputsAreConstant : Prop :=
  ∀ (n : Nat) (s : State), (s.after n).prog = s.prog ∧ (s.after n).byteOrder = s.byteOrder ∧
    (s.after n).helpers = s.helpers

/-- If x[10] = 512, the stack is in its canonical form, and there is a fault record exactly in Faulted, naming the pc
and the fetched bytes the state still has, then the same holds after a step, from every state, reachable or not.
(10_state.md R25; 10_state.md R34; 20_memory.md R52; 60_exceptions.md R349) -/
def Obligations.StepKeepsTheInvariant : Prop :=
  ∀ s t : State, Inv s → step s = .next t → Inv t

/-- From reset with any inputs, after any number of steps, x[10] is 512, and one more step answers a next state. (The
number is decision D8.) (10_state.md R25; 60_exceptions.md R354) -/
def Obligations.FramePointerIsConstant : Prop :=
  ∀ (inp : Inputs) (n : Nat), ((State.resetWith inp).after n).reg 10#4 = 512#64 ∧
    step ((State.resetWith inp).after n) = .next ((State.resetWith inp).after (n + 1))

/-- If pc lies in [-32768, PROG_LEN/8 + 32767], it does after a step. (pc counts words and is unbounded by decision D4.)
(10_state.md R26; 44_jump.md R250) -/
def Obligations.StepKeepsPcInRange : Prop :=
  ∀ s t : State, PcInRange s → step s = .next t → PcInRange t

/-- For n = 1, 2, 4, 8: in bounds, MemRead answers the value composed of the n bytes from addr on in the configured
order, a pattern of 8n bits; out of bounds it answers none, and the four loads then raise MemoryBoundsFault and do
nothing else. It answers no state, so it changes nothing, and it depends on the bytes read only. (Rule R53.) -/
def Obligations.StackReads : Prop :=
  (∀ (s : State) (addr : Int) (n : Nat), n ∈ [1, 2, 4, 8] → Inside addr n →
    ∃ v, s.memRead addr n = some v ∧ v.toNat = (valueOf s.byteOrder n fun k => s.stack.read (addr.toNat + k)) ∧
      v.toNat < 2 ^ (8 * n)) ∧
  (∀ (s : State) (addr : Int) (n : Nat), ¬Inside addr n → s.memRead addr n = none) ∧
  (∀ p ∈ loads, ∀ (f : Fields) (s : State), f.src.toNat ≤ 10 → s.memRead (ea s f.src f) p.2 = none →
    exec (p.1 f) s = .next (faulted s .memoryBoundsFault)) ∧
  (∀ (s t : State) (addr : Int) (n : Nat), t.byteOrder = s.byteOrder →
    (∀ k, k < n → t.stack.read (addr.toNat + k) = s.stack.read (addr.toNat + k)) → t.memRead addr n = s.memRead addr n)

/-- For n = 1, 2, 4, 8, from a stack in canonical form: in bounds, MemWrite makes the n bytes from addr on the low 8n
bits of v in the configured order, and no other byte and nothing else in the state changes; out of bounds it answers
none, and the eight stores then raise MemoryBoundsFault, which leaves every byte. (Rule R54.) -/
def Obligations.StackWrites : Prop :=
  (∀ (s : State) (addr : Int) (n : Nat) (v : Word), n ∈ [1, 2, 4, 8] → s.stack.wf = true → Inside addr n →
    ∃ t, s.memWrite addr n v = some t ∧ t = { s with stack := t.stack } ∧ t.stack.wf = true ∧
      (∀ k, k < n → t.stack.read (addr.toNat + k) = byteOf s.byteOrder n v.toNat k) ∧
      (∀ a : Nat, (a : Int) < addr ∨ addr + n ≤ a → t.stack.read a = s.stack.read a)) ∧
  (∀ (s : State) (addr : Int) (n : Nat) (v : Word), ¬Inside addr n → s.memWrite addr n v = none) ∧
  (∀ p ∈ stores, ∀ (f : Fields) (s : State) (v : Word), f.dst.toNat ≤ 10 → f.src.toNat ≤ 10 →
    s.memWrite (ea s f.dst f) p.2 v = none → exec (p.1 f) s = .next (faulted s .memoryBoundsFault))

/-- For n = 1, 2, 4, 8, in bounds: the value read has the byte at the lowest address least significant with LE and most
significant with BE; a one-byte access does not depend on the order; after a write of v a narrower read inside it
sees exactly the bytes the rule put there. The example of the rule: stxw of 0x11223344 at 500, read back by ldxb at
500 and ldxh at 502 in both orders. (Rule R51.) -/
def Obligations.DataByteOrder : Prop :=
  (∀ (s : State) (addr : Int) (n : Nat), n ∈ [1, 2, 4, 8] → Inside addr n → ∃ v, s.memRead addr n = some v ∧
    (s.byteOrder = .le → v.toNat = ∑ k ∈ Finset.range n, (s.stack.read (addr.toNat + k)).toNat * 256 ^ k) ∧
    (s.byteOrder = .be → v.toNat = ∑ k ∈ Finset.range n, (s.stack.read (addr.toNat + k)).toNat * 256 ^ (n - 1 - k)) ∧
    (n = 1 → v.toNat = (s.stack.read addr.toNat).toNat)) ∧
  (∀ (s t : State) (addr : Int) (n m d : Nat) (v : Word), n ∈ [1, 2, 4, 8] → m ∈ [1, 2, 4, 8] → d + m ≤ n →
    s.stack.wf = true → s.memWrite addr n v = some t →
    ∃ w, t.memRead (addr + d) m = some w ∧ w.toNat = valueOf s.byteOrder m fun k => byteOf s.byteOrder n v.toNat (d + k)) ∧
  (∀ s t : State, s.stack.wf = true → s.memWrite 500 4 0x11223344#64 = some t →
    (s.byteOrder = .le → t.stack.readBytes 500 4 = [0x44#8, 0x33#8, 0x22#8, 0x11#8] ∧
      t.memRead 500 1 = some 0x44#64 ∧ t.memRead 502 2 = some 0x1122#64) ∧
    (s.byteOrder = .be → t.stack.readBytes 500 4 = [0x11#8, 0x22#8, 0x33#8, 0x44#8] ∧
      t.memRead 500 1 = some 0x11#64 ∧ t.memRead 502 2 = some 0x3344#64))

/-- From a stack in canonical form: after stx of n bytes at an address in bounds, the ldx of the same size from the same
address, into any register 0 to 9, returns the low 8n bits of the value stored, under either byte order. The base
may be any register; the load may use another base and offset that give the same address. (20_memory.md R62;
20_memory.md R58) -/
def Obligations.StoreThenLoadReturnsTheValue : Prop :=
  ∀ p ∈ storeLoadPairs, ∀ (f g : Fields) (s t : State), s.stack.wf = true → f.dst.toNat ≤ 10 → f.src.toNat ≤ 10 →
    g.src.toNat ≤ 10 → g.dst.toNat < 10 → Inside (ea s f.dst f) p.2.2 → exec (p.1 f) s = .next t →
    ea t g.src g = ea s f.dst f →
    exec (p.2.1 g) t = .next (written t g.dst (BitVec.ofNat 64 ((s.reg f.src).toNat % 256 ^ p.2.2)) 1)

/-- From a stack in canonical form: after be32 of a register 0 to 9 and stxw of it at an address in bounds, the four
stack bytes are those of the old x[31:0], most significant first, whatever BYTE_ORDER is (R196 (f)). Which order a
swap converts from is decision D16. (42_alu32.md R196) -/
def Obligations.BigEndianSwapThenStore : Prop :=
  ∀ (s t u : State) (r base : RegId) (off : BitVec 16), s.stack.wf = true → r.toNat < 10 → base.toNat ≤ 10 →
    base ≠ r → exec (.be ⟨r, 0#4, 0#16, 32#32⟩ 0#32) s = .next t →
    Inside (ea s base ⟨base, r, off, 0#32⟩) 4 → exec (.stxw ⟨base, r, off, 0#32⟩) t = .next u →
    ∀ k, k < 4 → u.stack.read ((ea s base ⟨base, r, off, 0#32⟩).toNat + k) =
      BitVec.ofNat 8 ((s.reg r).toNat / 256 ^ (3 - k))

/-- For every state and every form: with dst 0 to 9 the instruction completes, x[dst] becomes the sum, difference,
product or negation modulo 2^64 (the immediate sign-extended), pc moves by one word and nothing else changes; with
dst 10 it raises FrameRegisterWriteViolation; an id above 10 raises InvalidRegister. Wrapping is decision D26.
(41_alu64.md R130; 41_alu64.md R131; 41_alu64.md section 2, R134 to R139 and R150) -/
def Obligations.Alu64Arithmetic : Prop :=
  Alu64 .add64K .add64X (fun d v => BitVec.ofNat 64 ((d.toNat + v.toNat) % 2 ^ 64)) ∧
  Alu64 .sub64K .sub64X (fun d v => BitVec.ofInt 64 (((d.toNat : Int) - v.toNat) % 2 ^ 64)) ∧
  Alu64 .mul64K .mul64X (fun d v => BitVec.ofNat 64 (d.toNat * v.toNat % 2 ^ 64)) ∧
  Neg .neg64 (fun d => BitVec.ofInt 64 ((0 - (d.toNat : Int)) % 2 ^ 64))

/-- For every state and every form: with dst 0 to 9 x[dst] becomes the unsigned quotient or remainder, or 0 where the
divisor is 0, pc moves by one word and nothing else changes; dst 10 and ids above 10 fault. Unsigned division is
decision D13. (41_alu64.md R132; 41_alu64.md section 2, R140, R141, R151, R152) -/
def Obligations.Alu64Division : Prop :=
  Alu64 .div64K .div64X (fun d v => if v.toNat = 0 then 0#64 else BitVec.ofNat 64 (d.toNat / v.toNat)) ∧
  Alu64 .mod64K .mod64X (fun d v => if v.toNat = 0 then 0#64 else BitVec.ofNat 64 (d.toNat % v.toNat))

/-- For every state and every form: with dst 0 to 9 x[dst] becomes, bit by bit, the or, and, exclusive or, or the second
operand itself; pc moves by one word and nothing else changes; dst 10 and ids above 10 fault. (41_alu64.md R130;
41_alu64.md section 2, R142 to R145 and R153 to R156) -/
def Obligations.Alu64BitwiseAndMove : Prop :=
  Alu64 .or64K .or64X (fun d v => BitVec.ofFnLE fun i : Fin 64 => d.getLsbD i || v.getLsbD i) ∧
  Alu64 .and64K .and64X (fun d v => BitVec.ofFnLE fun i : Fin 64 => d.getLsbD i && v.getLsbD i) ∧
  Alu64 .xor64K .xor64X (fun d v => BitVec.ofFnLE fun i : Fin 64 => xor (d.getLsbD i) (v.getLsbD i)) ∧
  Alu64 .mov64K .mov64X (fun _ v => v)

/-- For every state and every form: with dst 0 to 9 x[dst] becomes d * 2^a modulo 2^64, floor(d / 2^a), or the pattern
of floor(signed d / 2^a), with a the second operand modulo 64; pc moves by one word and nothing else changes; dst 10
and ids above 10 fault. The modulo for arsh is decision D17. (41_alu64.md R133; 41_alu64.md section 2, R146 to R149,
R157, R158) -/
def Obligations.Alu64Shifts : Prop :=
  Alu64 .lsh64K .lsh64X (fun d v => BitVec.ofNat 64 (d.toNat * 2 ^ (v.toNat % 64) % 2 ^ 64)) ∧
  Alu64 .rsh64K .rsh64X (fun d v => BitVec.ofNat 64 (d.toNat / 2 ^ (v.toNat % 64))) ∧
  Alu64 .arsh64K .arsh64X (fun d v => BitVec.ofInt 64 (d.toInt / 2 ^ (v.toNat % 64)))

/-- For every state and every form: with dst 0 to 9 x[dst] becomes the zero-extended sum, difference, product or
negation of the low halves modulo 2^32, pc moves by one word and nothing else changes; dst 10 and ids above 10
fault. Wrapping is decision D26. (42_alu32.md R170; 41_alu64.md R131; 42_alu32.md section 2, R171 to R176 and R187) -/
def Obligations.Alu32Arithmetic : Prop :=
  Alu32 .add32K .add32X (fun d v => BitVec.ofNat 32 ((d.toNat + v.toNat) % 2 ^ 32)) ∧
  Alu32 .sub32K .sub32X (fun d v => BitVec.ofInt 32 (((d.toNat : Int) - v.toNat) % 2 ^ 32)) ∧
  Alu32 .mul32K .mul32X (fun d v => BitVec.ofNat 32 (d.toNat * v.toNat % 2 ^ 32)) ∧
  Neg .neg32 (fun d => BitVec.ofInt 64 ((0 - ((low d).toNat : Int)) % 2 ^ 32))

/-- For every state and every form: with dst 0 to 9 x[dst] becomes the zero-extended unsigned quotient or remainder of
the low halves, or 0 where the divisor half is 0, pc moves by one word and nothing else changes; dst 10 and ids
above 10 fault. Unsigned division is decision D13. (42_alu32.md R170; 41_alu64.md R132; 42_alu32.md section 2, R177,
R178, R188, R189) -/
def Obligations.Alu32Division : Prop :=
  Alu32 .div32K .div32X (fun d v => if v.toNat = 0 then 0#32 else BitVec.ofNat 32 (d.toNat / v.toNat)) ∧
  Alu32 .mod32K .mod32X (fun d v => if v.toNat = 0 then 0#32 else BitVec.ofNat 32 (d.toNat % v.toNat))

/-- For every state and every form: with dst 0 to 9 x[dst] becomes, zero-extended, the bitwise or, and, exclusive or of
the low halves, or the second operand half itself; pc moves by one word and nothing else changes; dst 10 and ids
above 10 fault. (42_alu32.md R170; 42_alu32.md section 2, R179 to R182 and R190 to R193) -/
def Obligations.Alu32BitwiseAndMove : Prop :=
  Alu32 .or32K .or32X (fun d v => BitVec.ofFnLE fun i : Fin 32 => d.getLsbD i || v.getLsbD i) ∧
  Alu32 .and32K .and32X (fun d v => BitVec.ofFnLE fun i : Fin 32 => d.getLsbD i && v.getLsbD i) ∧
  Alu32 .xor32K .xor32X (fun d v => BitVec.ofFnLE fun i : Fin 32 => xor (d.getLsbD i) (v.getLsbD i)) ∧
  Alu32 .mov32K .mov32X (fun _ v => v)

/-- For every state and every form: with dst 0 to 9 x[dst] becomes the zero-extended shift of the low half, the amount
being the second operand half modulo 32 and the sign of arsh being bit 31; pc moves by one word and nothing else
changes; dst 10 and ids above 10 fault. The modulo for arsh is decision D17. (42_alu32.md R170; 41_alu64.md R133;
42_alu32.md section 2, R183 to R186, R194, R195) -/
def Obligations.Alu32Shifts : Prop :=
  Alu32 .lsh32K .lsh32X (fun d v => BitVec.ofNat 32 (d.toNat * 2 ^ (v.toNat % 32) % 2 ^ 32)) ∧
  Alu32 .rsh32K .rsh32X (fun d v => BitVec.ofNat 32 (d.toNat / 2 ^ (v.toNat % 32))) ∧
  Alu32 .arsh32K .arsh32X (fun d v => BitVec.ofInt 32 (d.toInt / 2 ^ (v.toNat % 32)))

/-- For every state and every form: with the width 16 or 32 (one word) or 64 (two words, continuation immediate 0),
x[dst] becomes the low bits of x[dst] if the target order is the configured one, and their bytes reversed if not,
zero-extended; pc moves by one word, or two for 64; nothing else changes; dst 10 and ids above 10 fault. Any other
immediate raises UnsupportedOpcode. Classes, widths and native order are decisions D2 and D16. (42_alu32.md R196;
42_alu32.md R197; 42_alu32.md R198) -/
def Obligations.ByteSwaps : Prop :=
  ∀ p ∈ [(ByteOrder.le, Instr.le), (ByteOrder.be, Instr.be)], ∀ (f : Fields) (c : BitVec 32) (s : State),
    (∀ n ∈ [2, 4], f.imm = BitVec.ofNat 32 (8 * n) →
      WritesDst (p.2 f c) s (BitVec.ofNat 64
        (if s.byteOrder = p.1 then (s.reg f.dst).toNat % 256 ^ n else reversed n (s.reg f.dst).toNat)) 1) ∧
    (f.imm = 64#32 → c = 0#32 →
      WritesDst (p.2 f c) s (BitVec.ofNat 64
        (if s.byteOrder = p.1 then (s.reg f.dst).toNat else reversed 8 (s.reg f.dst).toNat)) 2) ∧
    (f.imm ≠ 16#32 → f.imm ≠ 32#32 → ¬(f.imm = 64#32 ∧ c = 0#32) →
      exec (p.2 f c) s = .next (faulted s .unsupportedOpcode))

/-- For le and be with width 16, 32 or 64 on a register 0 to 9: applying the instruction twice leaves the low bits of
the original value, under either byte order. (42_alu32.md R197; 42_alu32.md R198) -/
def Obligations.SwappingTwiceTruncates : Prop :=
  ∀ p ∈ [(Instr.le, 2), (Instr.le, 4), (Instr.le, 8), (Instr.be, 2), (Instr.be, 4), (Instr.be, 8)],
    ∀ (r q : RegId) (off : BitVec 16) (s t u : State), r.toNat < 10 →
      exec (p.1 ⟨r, q, off, BitVec.ofNat 32 (8 * p.2)⟩ 0#32) s = .next t →
      exec (p.1 ⟨r, q, off, BitVec.ofNat 32 (8 * p.2)⟩ 0#32) t = .next u →
      (u.reg r).toNat = (s.reg r).toNat % 256 ^ p.2

/-- For every state and every form: with dst 0 to 9 x[dst] becomes the continuation immediate times 2^32 plus the first
immediate, both unsigned; pc moves by two words and nothing else changes, no stack byte included; dst 10 and ids
above 10 fault. That the immediate is what is written is decision D31. (43_load_store.md R211; 30_encoding.md R91) -/
def Obligations.WideLoad : Prop :=
  ∀ (f : Fields) (c : BitVec 32) (s : State),
    WritesDst (.lddw f c) s (BitVec.ofNat 64 (c.toNat * 2 ^ 32 + f.imm.toNat)) 2

/-- For every state and every form: with src at most 10, EA = unsigned x[src] + signed off, unbounded. In bounds, with
dst 0 to 9, x[dst] becomes the zero-extended value of the n bytes from EA in the configured order, pc moves by one
word, nothing else changes, and dst 10 raises FrameRegisterWriteViolation. Out of bounds raises MemoryBoundsFault,
with dst 10 too. A src above 10 raises InvalidRegister. A dst above 10, a form that the decoder rejects before any
load runs (R118), raises InvalidRegister in bounds and MemoryBoundsFault out of bounds: that order is the model's
choice (log 11). Which field is the base is decision D27; the bounds reading is D9. (43_load_store.md R210;
43_load_store.md R212 to R215; 20_memory.md R55; 20_memory.md R67; 40_decoder.md R118) -/
def Obligations.LoadsReadTheStack : Prop :=
  Loads .ldxb 1 ∧ Loads .ldxh 2 ∧ Loads .ldxw 4 ∧ Loads .ldxdw 8

/-- From a stack in canonical form, for every form: with dst at most 10, EA = unsigned x[dst] + signed off. In bounds
the instruction completes: the n bytes from EA are the low 8n bits of the sign-extended immediate in the configured
order, every other byte reads as before, pc moves by one word and nothing else changes. Out of bounds raises
MemoryBoundsFault; an id above 10 InvalidRegister. Sign extension is decision D18. (43_load_store.md R210;
43_load_store.md R216 to R219; 20_memory.md R55) -/
def Obligations.ImmediateStores : Prop :=
  StoresImm .stb 1 ∧ StoresImm .sth 2 ∧ StoresImm .stw 4 ∧ StoresImm .stdw 8

/-- From a stack in canonical form, for every form: with both ids at most 10, EA = unsigned x[dst] + signed off. In
bounds the instruction completes: the n bytes from EA are the low 8n bits of x[src] in the configured order, every
other byte reads as before, pc moves by one word and nothing else changes. Out of bounds raises MemoryBoundsFault;
an id above 10 InvalidRegister. Which field is the base is decision D27. (43_load_store.md R210; 43_load_store.md
R220 to R223; 20_memory.md R55) -/
def Obligations.RegisterStores : Prop :=
  StoresReg .stxb 1 ∧ StoresReg .stxh 2 ∧ StoresReg .stxw 4 ∧ StoresReg .stxdw 8

/-- For every state and every form ja completes: pc becomes pc + 1 + off, off signed, whatever the target, and nothing
else changes. With off = -1 the state is unchanged, so the core loops on it for ever. The unit of pc is decision D4.
(44_jump.md R250; 44_jump.md R253; 70_reset_and_hazards.md R392) -/
def Obligations.JumpAlways : Prop :=
  (∀ (f : Fields) (s : State), exec (.ja f) s = .next { s with pc := s.pc + 1 + f.off.toInt }) ∧
  (∀ (s : State) (f : Fields) (n : Nat), f.off = -1#16 → s.status = .running → s.fetchDecode = .instr (.ja f) →
    s.after n = s)

/-- For every state and all 22 forms: the jump is taken exactly where the comparison of x[dst] with x[src] or the sign-
extended immediate holds, unsigned or signed as the rule says; only pc changes (pc + 1 + off taken, pc + 1 not). jgt
with the immediate -1 is never taken. An id above 10 that the form reads raises InvalidRegister. (Rule R251.) -/
def Obligations.Comparators64 : Prop :=
  Jump64 .jeqK .jeqX (fun d v => decide (d.toNat = v.toNat)) ∧
  Jump64 .jneK .jneX (fun d v => decide (d.toNat ≠ v.toNat)) ∧
  Jump64 .jgtK .jgtX (fun d v => decide (d.toNat > v.toNat)) ∧
  Jump64 .jgeK .jgeX (fun d v => decide (d.toNat ≥ v.toNat)) ∧
  Jump64 .jltK .jltX (fun d v => decide (d.toNat < v.toNat)) ∧
  Jump64 .jleK .jleX (fun d v => decide (d.toNat ≤ v.toNat)) ∧
  Jump64 .jsgtK .jsgtX (fun d v => decide (d.toInt > v.toInt)) ∧
  Jump64 .jsgeK .jsgeX (fun d v => decide (d.toInt ≥ v.toInt)) ∧
  Jump64 .jsltK .jsltX (fun d v => decide (d.toInt < v.toInt)) ∧
  Jump64 .jsleK .jsleX (fun d v => decide (d.toInt ≤ v.toInt)) ∧
  Jump64 .jsetK .jsetX (fun d v => (List.range 64).any fun i => d.getLsbD i && v.getLsbD i) ∧
  (∀ (f : Fields) (s : State), f.dst.toNat ≤ 10 → f.imm = -1#32 → exec (.jgtK f) s = .next { s with pc := s.pc + 1 })

/-- For every state and all 22 forms: the jump is taken exactly where the comparison of the low half of x[dst] with the
low half of x[src] or the 32-bit immediate holds, the signed ones with bit 31 as the sign; only pc changes. An id
above 10 that the form reads raises InvalidRegister. The class is decision D19. (44_jump.md R252; 44_jump.md R278 to
R299) -/
def Obligations.Comparators32 : Prop :=
  Jump32 .jeq32K .jeq32X (fun d v => decide (d.toNat = v.toNat)) ∧
  Jump32 .jne32K .jne32X (fun d v => decide (d.toNat ≠ v.toNat)) ∧
  Jump32 .jgt32K .jgt32X (fun d v => decide (d.toNat > v.toNat)) ∧
  Jump32 .jge32K .jge32X (fun d v => decide (d.toNat ≥ v.toNat)) ∧
  Jump32 .jlt32K .jlt32X (fun d v => decide (d.toNat < v.toNat)) ∧
  Jump32 .jle32K .jle32X (fun d v => decide (d.toNat ≤ v.toNat)) ∧
  Jump32 .jsgt32K .jsgt32X (fun d v => decide (d.toInt > v.toInt)) ∧
  Jump32 .jsge32K .jsge32X (fun d v => decide (d.toInt ≥ v.toInt)) ∧
  Jump32 .jslt32K .jslt32X (fun d v => decide (d.toInt < v.toInt)) ∧
  Jump32 .jsle32K .jsle32X (fun d v => decide (d.toInt ≤ v.toInt)) ∧
  Jump32 .jset32K .jset32X (fun d v => (List.range 32).any fun i => d.getLsbD i && v.getLsbD i)

/-- If HELPERS gives the id an effect, call completes in every state: for some outcome that the effect allows for x[1]
to x[5] and the stack, x[0] to x[5] and the stack become that outcome's; x[6] to x[10] are kept; pc moves by one
word; the draw count (the model's own field, log 7) by one; nothing else changes. An id without an effect raises
UnsupportedOpcode. The shape of the table and the fault are decision D22. (44_jump.md R276; 20_memory.md R68) -/
def Obligations.CallRunsTheHelper : Prop :=
  (∀ (f : Fields) (s : State) (e : HelperEffect), s.helpers.lookup f.imm = some e → ∃ t o,
    exec (.call f) s = .next t ∧ e.Allows (argsOf s) s.stack o ∧
    t = { s with regs := t.regs, stack := o.stack, pc := s.pc + 1, draws := s.draws + 1 } ∧
    (∀ r : RegId, r.toNat ≤ 5 → o.regs[r.toNat]? = some (t.reg r)) ∧
    (∀ r : RegId, 6 ≤ r.toNat → t.reg r = s.reg r)) ∧
  (∀ (f : Fields) (s : State), s.helpers.lookup f.imm = none → exec (.call f) s = .next (faulted s .unsupportedOpcode))

/-- For every state and every form exit completes: STATUS becomes Exited; registers, stack and pc keep their values.
(That pc stays is decision D23.) (44_jump.md R277) -/
def Obligations.ExitEndsTheRun : Prop :=
  ∀ (f : Fields) (s : State), exec (.exit f) s = .next { s with status := .exited }

/-- For every state and every form the eight named opcodes without an operation answer the next state of fault entry
with UnsupportedOpcode: that is the effect the spec gives them (decisions D20, D21). (43_load_store.md R224 to R231;
60_exceptions.md R345) -/
def Obligations.NamedButUnsupportedOpcodes : Prop :=
  ∀ i ∈ [Instr.ldabsw, Instr.ldabsh, Instr.ldabsb, Instr.ldindw, Instr.ldindh, Instr.ldindb, Instr.xaddw, Instr.xadddw],
    ∀ (f : Fields) (s : State), exec (i f) s = .next (faulted s .unsupportedOpcode)

/-- From a stack in canonical form, every outcome that an effect allows is made by some choice of the free words: x[0]
to x[5] are the values of the effect's expressions; the stack keeps its canonical form; a byte that a store names,
and no later store, becomes the low byte of its value; if the effect keeps the stack, a byte that no store names is
as before. The effect that says nothing allows every outcome. That effects are written as expressions is the model's
choice (log 6). (44_jump.md R276; 20_memory.md R68; 93_implementation_defined.md U1, U2) -/
def Obligations.HelperOutcomesFollowTheEffect : Prop :=
  (∀ (e : HelperEffect) (args : HelperArgs) (stack : Memory) (o : HelperOutcome), stack.wf = true →
    e.Allows args stack o → ∃ w : Nat → Word,
      (∀ k (h : k < 6), o.regs[k] = e.regs[k].eval args stack.read w) ∧ o.stack.wf = true ∧
      (∀ before p after, e.stores = before ++ p :: after → (p.1.eval args stack.read w).toNat < 512 →
        (∀ q ∈ after, q.1.eval args stack.read w ≠ p.1.eval args stack.read w) →
        o.stack.read (p.1.eval args stack.read w).toNat = BitVec.ofNat 8 (p.2.eval args stack.read w).toNat) ∧
      (e.keepsStack = true → ∀ a, (∀ p ∈ e.stores, (p.1.eval args stack.read w).toNat ≠ a) →
        o.stack.read a = stack.read a)) ∧
  (∀ (args : HelperArgs) (stack : Memory) (o : HelperOutcome), o.stack.wf = true →
    HelperEffect.unspecified.Allows args stack o)

/-- In every state whose HELPERS gives the id the helper of the example of R276, call completes: x[0] becomes x[1] +
x[2] modulo 2^64, x[6] to x[10] and every stack byte are kept, pc moves by one word, STATUS and FAULT are kept.
Nothing is said of x[1] to x[5], which are free. (Decision D22.) (44_jump.md R276; 95_test_vectors.md T7.1) -/
def Obligations.SumHelperOfTheSpec : Prop :=
  ∀ (f : Fields) (s : State), s.helpers.lookup f.imm = some sumEffect → ∃ t, exec (.call f) s = .next t ∧
    (t.reg 0#4).toNat = ((s.reg 1#4).toNat + (s.reg 2#4).toNat) % 2 ^ 64 ∧ (∀ r : RegId, 6 ≤ r.toNat → t.reg r = s.reg r) ∧
    t.stack = s.stack ∧ t.pc = s.pc + 1 ∧ t.status = s.status ∧ t.fault = s.fault

/-- If every effect in HELPERS is a function (it names no free word and keeps the bytes it does not store to; an empty
HELPERS is such a table), two runs from the same five inputs, with whatever draws, agree after every number of steps
in all but the draw count (the model's own field, log 7), and have taken the same number of steps.
(45_fetch_execute.md R329) -/
def Obligations.FunctionalHelpersMakeRunsDeterministic : Prop :=
  ∀ (inp : Inputs) (d n : Nat), (∀ p ∈ inp.helpers, p.2.functional = true) →
    Inputs.run { inp with firstDraw := d } n =
      { inp.run n with draws := (Inputs.run { inp with firstDraw := d } n).draws } ∧
    (State.resetWith { inp with firstDraw := d }).stepsTaken n = (State.resetWith inp).stepsTaken n
end

