-- ==== Sys2Proof/Laws/Bytes.lean ====
section
/-! SUPPORT. `compose` and `split` are inverse to each other (00_scope.md R8). -/

namespace Sys2Proof

@[simp] theorem length_splitLE (n v : Nat) : (splitLE n v).length = n := by
  induction n generalizing v with
  | zero => rfl
  | succ n ih => simp [splitLE, ih]

@[simp] theorem length_split (o : ByteOrder) (n v : Nat) : (split o n v).length = n := by
  cases o <;> simp [split]

theorem composeLE_lt (bs : List Byte) : composeLE bs < 256 ^ bs.length := by
  induction bs with
  | nil => simp [composeLE]
  | cons b bs ih =>
    have hb : b.toNat < 256 := b.isLt
    simp only [composeLE, List.length_cons, Nat.pow_succ]
    omega

theorem compose_lt (o : ByteOrder) (bs : List Byte) : compose o bs < 256 ^ bs.length := by
  cases o
  · exact composeLE_lt bs
  · simpa [compose] using composeLE_lt bs.reverse

theorem composeLE_splitLE (n v : Nat) : composeLE (splitLE n v) = v % 256 ^ n := by
  induction n generalizing v with
  | zero => simp [splitLE, composeLE, Nat.mod_one]
  | succ n ih =>
    have h : v % 256 ^ (n + 1) = v % 256 + 256 * (v / 256 % 256 ^ n) := by
      rw [Nat.pow_succ, Nat.mul_comm, Nat.mod_mul]
    simp [splitLE, composeLE, ih, h]

theorem splitLE_composeLE (bs : List Byte) : splitLE bs.length (composeLE bs) = bs := by
  induction bs with
  | nil => rfl
  | cons b bs ih =>
    have hb : b.toNat < 256 := b.isLt
    have hq : (b.toNat + 256 * composeLE bs) / 256 = composeLE bs := by omega
    have hm : BitVec.ofNat 8 (b.toNat + 256 * composeLE bs) = b := by
      apply BitVec.eq_of_toNat_eq
      simp only [BitVec.toNat_ofNat]
      omega
    simp [splitLE, composeLE, hq, hm, ih]

/-- `compose` of `split` truncates. -/
theorem compose_split (o : ByteOrder) (n v : Nat) : compose o (split o n v) = v % 256 ^ n := by
  cases o <;> simp [compose, split, composeLE_splitLE]

/-- `split` undoes `compose`. -/
theorem split_compose (o : ByteOrder) (bs : List Byte) : split o bs.length (compose o bs) = bs := by
  cases o
  · exact splitLE_composeLE bs
  · have h := splitLE_composeLE bs.reverse
    rw [List.length_reverse] at h
    simp [compose, split, h]

theorem split_congr (o : ByteOrder) (n : Nat) {v w : Nat} (h : v % 256 ^ n = w % 256 ^ n) :
    split o n v = split o n w := by
  have hv := split_compose o (split o n v)
  have hw := split_compose o (split o n w)
  rw [length_split, compose_split] at hv hw
  rw [← hv, ← hw, h]

end Sys2Proof
end

