-- ==== Sys2Proof/Laws/PerInstr.lean ====
section
/-! SUPPORT. Facts about instructions as syntax, one lemma per constructor. -/

namespace Sys2Proof.Laws.OpcodeNamed

/-- The opcode byte that the encoder gives an instruction names that instruction, and the wide test on it and the
immediate is the instruction's own (30_encoding.md R92, R94). -/
def Statement (i : Instr) : Prop :=
  named i.opcode i.fields i.cont = some i ∧ wideWord i.opcode i.fields.imm = i.wide

theorem add64K (f : Fields) : Statement (.add64K f) :=
  ⟨(rfl : named 0x0f#8 f 0#32 = some (.add64K f)), rfl⟩
theorem add64X (f : Fields) : Statement (.add64X f) :=
  ⟨(rfl : named 0x07#8 f 0#32 = some (.add64X f)), rfl⟩
theorem sub64K (f : Fields) : Statement (.sub64K f) :=
  ⟨(rfl : named 0x1f#8 f 0#32 = some (.sub64K f)), rfl⟩
theorem sub64X (f : Fields) : Statement (.sub64X f) :=
  ⟨(rfl : named 0x17#8 f 0#32 = some (.sub64X f)), rfl⟩
theorem mul64K (f : Fields) : Statement (.mul64K f) :=
  ⟨(rfl : named 0x2f#8 f 0#32 = some (.mul64K f)), rfl⟩
theorem mul64X (f : Fields) : Statement (.mul64X f) :=
  ⟨(rfl : named 0x27#8 f 0#32 = some (.mul64X f)), rfl⟩
theorem div64K (f : Fields) : Statement (.div64K f) :=
  ⟨(rfl : named 0x3f#8 f 0#32 = some (.div64K f)), rfl⟩
theorem div64X (f : Fields) : Statement (.div64X f) :=
  ⟨(rfl : named 0x37#8 f 0#32 = some (.div64X f)), rfl⟩
theorem or64K (f : Fields) : Statement (.or64K f) :=
  ⟨(rfl : named 0x4f#8 f 0#32 = some (.or64K f)), rfl⟩
theorem or64X (f : Fields) : Statement (.or64X f) :=
  ⟨(rfl : named 0x47#8 f 0#32 = some (.or64X f)), rfl⟩
theorem and64K (f : Fields) : Statement (.and64K f) :=
  ⟨(rfl : named 0x5f#8 f 0#32 = some (.and64K f)), rfl⟩
theorem and64X (f : Fields) : Statement (.and64X f) :=
  ⟨(rfl : named 0x57#8 f 0#32 = some (.and64X f)), rfl⟩
theorem lsh64K (f : Fields) : Statement (.lsh64K f) :=
  ⟨(rfl : named 0x6f#8 f 0#32 = some (.lsh64K f)), rfl⟩
theorem lsh64X (f : Fields) : Statement (.lsh64X f) :=
  ⟨(rfl : named 0x67#8 f 0#32 = some (.lsh64X f)), rfl⟩
theorem rsh64K (f : Fields) : Statement (.rsh64K f) :=
  ⟨(rfl : named 0x7f#8 f 0#32 = some (.rsh64K f)), rfl⟩
theorem rsh64X (f : Fields) : Statement (.rsh64X f) :=
  ⟨(rfl : named 0x77#8 f 0#32 = some (.rsh64X f)), rfl⟩
theorem mod64K (f : Fields) : Statement (.mod64K f) :=
  ⟨(rfl : named 0x9f#8 f 0#32 = some (.mod64K f)), rfl⟩
theorem mod64X (f : Fields) : Statement (.mod64X f) :=
  ⟨(rfl : named 0x97#8 f 0#32 = some (.mod64X f)), rfl⟩
theorem xor64K (f : Fields) : Statement (.xor64K f) :=
  ⟨(rfl : named 0xaf#8 f 0#32 = some (.xor64K f)), rfl⟩
theorem xor64X (f : Fields) : Statement (.xor64X f) :=
  ⟨(rfl : named 0xa7#8 f 0#32 = some (.xor64X f)), rfl⟩
theorem mov64K (f : Fields) : Statement (.mov64K f) :=
  ⟨(rfl : named 0xbf#8 f 0#32 = some (.mov64K f)), rfl⟩
theorem mov64X (f : Fields) : Statement (.mov64X f) :=
  ⟨(rfl : named 0xb7#8 f 0#32 = some (.mov64X f)), rfl⟩
theorem arsh64K (f : Fields) : Statement (.arsh64K f) :=
  ⟨(rfl : named 0xcf#8 f 0#32 = some (.arsh64K f)), rfl⟩
theorem arsh64X (f : Fields) : Statement (.arsh64X f) :=
  ⟨(rfl : named 0xc7#8 f 0#32 = some (.arsh64X f)), rfl⟩
theorem neg64 (f : Fields) : Statement (.neg64 f) :=
  ⟨(rfl : named 0x87#8 f 0#32 = some (.neg64 f)), rfl⟩
theorem add32K (f : Fields) : Statement (.add32K f) :=
  ⟨(rfl : named 0x0c#8 f 0#32 = some (.add32K f)), rfl⟩
theorem add32X (f : Fields) : Statement (.add32X f) :=
  ⟨(rfl : named 0x04#8 f 0#32 = some (.add32X f)), rfl⟩
theorem sub32K (f : Fields) : Statement (.sub32K f) :=
  ⟨(rfl : named 0x1c#8 f 0#32 = some (.sub32K f)), rfl⟩
theorem sub32X (f : Fields) : Statement (.sub32X f) :=
  ⟨(rfl : named 0x14#8 f 0#32 = some (.sub32X f)), rfl⟩
theorem mul32K (f : Fields) : Statement (.mul32K f) :=
  ⟨(rfl : named 0x2c#8 f 0#32 = some (.mul32K f)), rfl⟩
theorem mul32X (f : Fields) : Statement (.mul32X f) :=
  ⟨(rfl : named 0x24#8 f 0#32 = some (.mul32X f)), rfl⟩
theorem div32K (f : Fields) : Statement (.div32K f) :=
  ⟨(rfl : named 0x3c#8 f 0#32 = some (.div32K f)), rfl⟩
theorem div32X (f : Fields) : Statement (.div32X f) :=
  ⟨(rfl : named 0x34#8 f 0#32 = some (.div32X f)), rfl⟩
theorem or32K (f : Fields) : Statement (.or32K f) :=
  ⟨(rfl : named 0x4c#8 f 0#32 = some (.or32K f)), rfl⟩
theorem or32X (f : Fields) : Statement (.or32X f) :=
  ⟨(rfl : named 0x44#8 f 0#32 = some (.or32X f)), rfl⟩
theorem and32K (f : Fields) : Statement (.and32K f) :=
  ⟨(rfl : named 0x5c#8 f 0#32 = some (.and32K f)), rfl⟩
theorem and32X (f : Fields) : Statement (.and32X f) :=
  ⟨(rfl : named 0x54#8 f 0#32 = some (.and32X f)), rfl⟩
theorem lsh32K (f : Fields) : Statement (.lsh32K f) :=
  ⟨(rfl : named 0x6c#8 f 0#32 = some (.lsh32K f)), rfl⟩
theorem lsh32X (f : Fields) : Statement (.lsh32X f) :=
  ⟨(rfl : named 0x64#8 f 0#32 = some (.lsh32X f)), rfl⟩
theorem rsh32K (f : Fields) : Statement (.rsh32K f) :=
  ⟨(rfl : named 0x7c#8 f 0#32 = some (.rsh32K f)), rfl⟩
theorem rsh32X (f : Fields) : Statement (.rsh32X f) :=
  ⟨(rfl : named 0x74#8 f 0#32 = some (.rsh32X f)), rfl⟩
theorem mod32K (f : Fields) : Statement (.mod32K f) :=
  ⟨(rfl : named 0x9c#8 f 0#32 = some (.mod32K f)), rfl⟩
theorem mod32X (f : Fields) : Statement (.mod32X f) :=
  ⟨(rfl : named 0x94#8 f 0#32 = some (.mod32X f)), rfl⟩
theorem xor32K (f : Fields) : Statement (.xor32K f) :=
  ⟨(rfl : named 0xac#8 f 0#32 = some (.xor32K f)), rfl⟩
theorem xor32X (f : Fields) : Statement (.xor32X f) :=
  ⟨(rfl : named 0xa4#8 f 0#32 = some (.xor32X f)), rfl⟩
theorem mov32K (f : Fields) : Statement (.mov32K f) :=
  ⟨(rfl : named 0xbc#8 f 0#32 = some (.mov32K f)), rfl⟩
theorem mov32X (f : Fields) : Statement (.mov32X f) :=
  ⟨(rfl : named 0xb4#8 f 0#32 = some (.mov32X f)), rfl⟩
theorem arsh32K (f : Fields) : Statement (.arsh32K f) :=
  ⟨(rfl : named 0xcc#8 f 0#32 = some (.arsh32K f)), rfl⟩
theorem arsh32X (f : Fields) : Statement (.arsh32X f) :=
  ⟨(rfl : named 0xc4#8 f 0#32 = some (.arsh32X f)), rfl⟩
theorem neg32 (f : Fields) : Statement (.neg32 f) :=
  ⟨(rfl : named 0x84#8 f 0#32 = some (.neg32 f)), rfl⟩
theorem le (f : Fields) (cont : BitVec 32) : Statement (.le f cont) :=
  ⟨(rfl : named 0xd4#8 f cont = some (.le f cont)), rfl⟩
theorem be (f : Fields) (cont : BitVec 32) : Statement (.be f cont) :=
  ⟨(rfl : named 0xdc#8 f cont = some (.be f cont)), rfl⟩
theorem lddw (f : Fields) (cont : BitVec 32) : Statement (.lddw f cont) :=
  ⟨(rfl : named 0x18#8 f cont = some (.lddw f cont)), rfl⟩
theorem ldxw (f : Fields) : Statement (.ldxw f) :=
  ⟨(rfl : named 0x61#8 f 0#32 = some (.ldxw f)), rfl⟩
theorem ldxh (f : Fields) : Statement (.ldxh f) :=
  ⟨(rfl : named 0x69#8 f 0#32 = some (.ldxh f)), rfl⟩
theorem ldxb (f : Fields) : Statement (.ldxb f) :=
  ⟨(rfl : named 0x71#8 f 0#32 = some (.ldxb f)), rfl⟩
theorem ldxdw (f : Fields) : Statement (.ldxdw f) :=
  ⟨(rfl : named 0x79#8 f 0#32 = some (.ldxdw f)), rfl⟩
theorem stw (f : Fields) : Statement (.stw f) :=
  ⟨(rfl : named 0x62#8 f 0#32 = some (.stw f)), rfl⟩
theorem sth (f : Fields) : Statement (.sth f) :=
  ⟨(rfl : named 0x6a#8 f 0#32 = some (.sth f)), rfl⟩
theorem stb (f : Fields) : Statement (.stb f) :=
  ⟨(rfl : named 0x72#8 f 0#32 = some (.stb f)), rfl⟩
theorem stdw (f : Fields) : Statement (.stdw f) :=
  ⟨(rfl : named 0x7a#8 f 0#32 = some (.stdw f)), rfl⟩
theorem stxw (f : Fields) : Statement (.stxw f) :=
  ⟨(rfl : named 0x63#8 f 0#32 = some (.stxw f)), rfl⟩
theorem stxh (f : Fields) : Statement (.stxh f) :=
  ⟨(rfl : named 0x6b#8 f 0#32 = some (.stxh f)), rfl⟩
theorem stxb (f : Fields) : Statement (.stxb f) :=
  ⟨(rfl : named 0x73#8 f 0#32 = some (.stxb f)), rfl⟩
theorem stxdw (f : Fields) : Statement (.stxdw f) :=
  ⟨(rfl : named 0x7b#8 f 0#32 = some (.stxdw f)), rfl⟩
theorem ldabsw (f : Fields) : Statement (.ldabsw f) :=
  ⟨(rfl : named 0x20#8 f 0#32 = some (.ldabsw f)), rfl⟩
theorem ldabsh (f : Fields) : Statement (.ldabsh f) :=
  ⟨(rfl : named 0x28#8 f 0#32 = some (.ldabsh f)), rfl⟩
theorem ldabsb (f : Fields) : Statement (.ldabsb f) :=
  ⟨(rfl : named 0x30#8 f 0#32 = some (.ldabsb f)), rfl⟩
theorem ldindw (f : Fields) : Statement (.ldindw f) :=
  ⟨(rfl : named 0x40#8 f 0#32 = some (.ldindw f)), rfl⟩
theorem ldindh (f : Fields) : Statement (.ldindh f) :=
  ⟨(rfl : named 0x48#8 f 0#32 = some (.ldindh f)), rfl⟩
theorem ldindb (f : Fields) : Statement (.ldindb f) :=
  ⟨(rfl : named 0x50#8 f 0#32 = some (.ldindb f)), rfl⟩
theorem xaddw (f : Fields) : Statement (.xaddw f) :=
  ⟨(rfl : named 0xc3#8 f 0#32 = some (.xaddw f)), rfl⟩
theorem xadddw (f : Fields) : Statement (.xadddw f) :=
  ⟨(rfl : named 0xdb#8 f 0#32 = some (.xadddw f)), rfl⟩
theorem ja (f : Fields) : Statement (.ja f) :=
  ⟨(rfl : named 0x05#8 f 0#32 = some (.ja f)), rfl⟩
theorem jeqK (f : Fields) : Statement (.jeqK f) :=
  ⟨(rfl : named 0x1d#8 f 0#32 = some (.jeqK f)), rfl⟩
theorem jeqX (f : Fields) : Statement (.jeqX f) :=
  ⟨(rfl : named 0x15#8 f 0#32 = some (.jeqX f)), rfl⟩
theorem jgtK (f : Fields) : Statement (.jgtK f) :=
  ⟨(rfl : named 0x2d#8 f 0#32 = some (.jgtK f)), rfl⟩
theorem jgtX (f : Fields) : Statement (.jgtX f) :=
  ⟨(rfl : named 0x25#8 f 0#32 = some (.jgtX f)), rfl⟩
theorem jgeK (f : Fields) : Statement (.jgeK f) :=
  ⟨(rfl : named 0x3d#8 f 0#32 = some (.jgeK f)), rfl⟩
theorem jgeX (f : Fields) : Statement (.jgeX f) :=
  ⟨(rfl : named 0x35#8 f 0#32 = some (.jgeX f)), rfl⟩
theorem jsetK (f : Fields) : Statement (.jsetK f) :=
  ⟨(rfl : named 0x4d#8 f 0#32 = some (.jsetK f)), rfl⟩
theorem jsetX (f : Fields) : Statement (.jsetX f) :=
  ⟨(rfl : named 0x45#8 f 0#32 = some (.jsetX f)), rfl⟩
theorem jneK (f : Fields) : Statement (.jneK f) :=
  ⟨(rfl : named 0x5d#8 f 0#32 = some (.jneK f)), rfl⟩
theorem jneX (f : Fields) : Statement (.jneX f) :=
  ⟨(rfl : named 0x55#8 f 0#32 = some (.jneX f)), rfl⟩
theorem jsgtK (f : Fields) : Statement (.jsgtK f) :=
  ⟨(rfl : named 0x6d#8 f 0#32 = some (.jsgtK f)), rfl⟩
theorem jsgtX (f : Fields) : Statement (.jsgtX f) :=
  ⟨(rfl : named 0x65#8 f 0#32 = some (.jsgtX f)), rfl⟩
theorem jsgeK (f : Fields) : Statement (.jsgeK f) :=
  ⟨(rfl : named 0x7d#8 f 0#32 = some (.jsgeK f)), rfl⟩
theorem jsgeX (f : Fields) : Statement (.jsgeX f) :=
  ⟨(rfl : named 0x75#8 f 0#32 = some (.jsgeX f)), rfl⟩
theorem jltK (f : Fields) : Statement (.jltK f) :=
  ⟨(rfl : named 0xad#8 f 0#32 = some (.jltK f)), rfl⟩
theorem jltX (f : Fields) : Statement (.jltX f) :=
  ⟨(rfl : named 0xa5#8 f 0#32 = some (.jltX f)), rfl⟩
theorem jleK (f : Fields) : Statement (.jleK f) :=
  ⟨(rfl : named 0xbd#8 f 0#32 = some (.jleK f)), rfl⟩
theorem jleX (f : Fields) : Statement (.jleX f) :=
  ⟨(rfl : named 0xb5#8 f 0#32 = some (.jleX f)), rfl⟩
theorem jsltK (f : Fields) : Statement (.jsltK f) :=
  ⟨(rfl : named 0xcd#8 f 0#32 = some (.jsltK f)), rfl⟩
theorem jsltX (f : Fields) : Statement (.jsltX f) :=
  ⟨(rfl : named 0xc5#8 f 0#32 = some (.jsltX f)), rfl⟩
theorem jsleK (f : Fields) : Statement (.jsleK f) :=
  ⟨(rfl : named 0xdd#8 f 0#32 = some (.jsleK f)), rfl⟩
theorem jsleX (f : Fields) : Statement (.jsleX f) :=
  ⟨(rfl : named 0xd5#8 f 0#32 = some (.jsleX f)), rfl⟩
theorem jeq32K (f : Fields) : Statement (.jeq32K f) :=
  ⟨(rfl : named 0x1e#8 f 0#32 = some (.jeq32K f)), rfl⟩
theorem jeq32X (f : Fields) : Statement (.jeq32X f) :=
  ⟨(rfl : named 0x16#8 f 0#32 = some (.jeq32X f)), rfl⟩
theorem jgt32K (f : Fields) : Statement (.jgt32K f) :=
  ⟨(rfl : named 0x2e#8 f 0#32 = some (.jgt32K f)), rfl⟩
theorem jgt32X (f : Fields) : Statement (.jgt32X f) :=
  ⟨(rfl : named 0x26#8 f 0#32 = some (.jgt32X f)), rfl⟩
theorem jge32K (f : Fields) : Statement (.jge32K f) :=
  ⟨(rfl : named 0x3e#8 f 0#32 = some (.jge32K f)), rfl⟩
theorem jge32X (f : Fields) : Statement (.jge32X f) :=
  ⟨(rfl : named 0x36#8 f 0#32 = some (.jge32X f)), rfl⟩
theorem jset32K (f : Fields) : Statement (.jset32K f) :=
  ⟨(rfl : named 0x4e#8 f 0#32 = some (.jset32K f)), rfl⟩
theorem jset32X (f : Fields) : Statement (.jset32X f) :=
  ⟨(rfl : named 0x46#8 f 0#32 = some (.jset32X f)), rfl⟩
theorem jne32K (f : Fields) : Statement (.jne32K f) :=
  ⟨(rfl : named 0x5e#8 f 0#32 = some (.jne32K f)), rfl⟩
theorem jne32X (f : Fields) : Statement (.jne32X f) :=
  ⟨(rfl : named 0x56#8 f 0#32 = some (.jne32X f)), rfl⟩
theorem jsgt32K (f : Fields) : Statement (.jsgt32K f) :=
  ⟨(rfl : named 0x6e#8 f 0#32 = some (.jsgt32K f)), rfl⟩
theorem jsgt32X (f : Fields) : Statement (.jsgt32X f) :=
  ⟨(rfl : named 0x66#8 f 0#32 = some (.jsgt32X f)), rfl⟩
theorem jsge32K (f : Fields) : Statement (.jsge32K f) :=
  ⟨(rfl : named 0x7e#8 f 0#32 = some (.jsge32K f)), rfl⟩
theorem jsge32X (f : Fields) : Statement (.jsge32X f) :=
  ⟨(rfl : named 0x76#8 f 0#32 = some (.jsge32X f)), rfl⟩
theorem jlt32K (f : Fields) : Statement (.jlt32K f) :=
  ⟨(rfl : named 0xae#8 f 0#32 = some (.jlt32K f)), rfl⟩
theorem jlt32X (f : Fields) : Statement (.jlt32X f) :=
  ⟨(rfl : named 0xa6#8 f 0#32 = some (.jlt32X f)), rfl⟩
theorem jle32K (f : Fields) : Statement (.jle32K f) :=
  ⟨(rfl : named 0xbe#8 f 0#32 = some (.jle32K f)), rfl⟩
theorem jle32X (f : Fields) : Statement (.jle32X f) :=
  ⟨(rfl : named 0xb6#8 f 0#32 = some (.jle32X f)), rfl⟩
theorem jslt32K (f : Fields) : Statement (.jslt32K f) :=
  ⟨(rfl : named 0xce#8 f 0#32 = some (.jslt32K f)), rfl⟩
theorem jslt32X (f : Fields) : Statement (.jslt32X f) :=
  ⟨(rfl : named 0xc6#8 f 0#32 = some (.jslt32X f)), rfl⟩
theorem jsle32K (f : Fields) : Statement (.jsle32K f) :=
  ⟨(rfl : named 0xde#8 f 0#32 = some (.jsle32K f)), rfl⟩
theorem jsle32X (f : Fields) : Statement (.jsle32X f) :=
  ⟨(rfl : named 0xd6#8 f 0#32 = some (.jsle32X f)), rfl⟩
theorem call (f : Fields) : Statement (.call f) :=
  ⟨(rfl : named 0x85#8 f 0#32 = some (.call f)), rfl⟩
theorem exit (f : Fields) : Statement (.exit f) :=
  ⟨(rfl : named 0x95#8 f 0#32 = some (.exit f)), rfl⟩

end Sys2Proof.Laws.OpcodeNamed
end

