-- ==== Sys2Proof/Laws/Decode.lean ====
section
/-! SUPPORT. What the two halves of the decoder answer, and how the encoder's bytes read back. -/

namespace Sys2Proof

/-! ## The opcode byte -/

theorem Instr.opcodeNamed (i : Instr) : Laws.OpcodeNamed.Statement i :=
  match i with
  | .add64K f => Laws.OpcodeNamed.add64K f
  | .add64X f => Laws.OpcodeNamed.add64X f
  | .sub64K f => Laws.OpcodeNamed.sub64K f
  | .sub64X f => Laws.OpcodeNamed.sub64X f
  | .mul64K f => Laws.OpcodeNamed.mul64K f
  | .mul64X f => Laws.OpcodeNamed.mul64X f
  | .div64K f => Laws.OpcodeNamed.div64K f
  | .div64X f => Laws.OpcodeNamed.div64X f
  | .or64K f => Laws.OpcodeNamed.or64K f
  | .or64X f => Laws.OpcodeNamed.or64X f
  | .and64K f => Laws.OpcodeNamed.and64K f
  | .and64X f => Laws.OpcodeNamed.and64X f
  | .lsh64K f => Laws.OpcodeNamed.lsh64K f
  | .lsh64X f => Laws.OpcodeNamed.lsh64X f
  | .rsh64K f => Laws.OpcodeNamed.rsh64K f
  | .rsh64X f => Laws.OpcodeNamed.rsh64X f
  | .mod64K f => Laws.OpcodeNamed.mod64K f
  | .mod64X f => Laws.OpcodeNamed.mod64X f
  | .xor64K f => Laws.OpcodeNamed.xor64K f
  | .xor64X f => Laws.OpcodeNamed.xor64X f
  | .mov64K f => Laws.OpcodeNamed.mov64K f
  | .mov64X f => Laws.OpcodeNamed.mov64X f
  | .arsh64K f => Laws.OpcodeNamed.arsh64K f
  | .arsh64X f => Laws.OpcodeNamed.arsh64X f
  | .neg64 f => Laws.OpcodeNamed.neg64 f
  | .add32K f => Laws.OpcodeNamed.add32K f
  | .add32X f => Laws.OpcodeNamed.add32X f
  | .sub32K f => Laws.OpcodeNamed.sub32K f
  | .sub32X f => Laws.OpcodeNamed.sub32X f
  | .mul32K f => Laws.OpcodeNamed.mul32K f
  | .mul32X f => Laws.OpcodeNamed.mul32X f
  | .div32K f => Laws.OpcodeNamed.div32K f
  | .div32X f => Laws.OpcodeNamed.div32X f
  | .or32K f => Laws.OpcodeNamed.or32K f
  | .or32X f => Laws.OpcodeNamed.or32X f
  | .and32K f => Laws.OpcodeNamed.and32K f
  | .and32X f => Laws.OpcodeNamed.and32X f
  | .lsh32K f => Laws.OpcodeNamed.lsh32K f
  | .lsh32X f => Laws.OpcodeNamed.lsh32X f
  | .rsh32K f => Laws.OpcodeNamed.rsh32K f
  | .rsh32X f => Laws.OpcodeNamed.rsh32X f
  | .mod32K f => Laws.OpcodeNamed.mod32K f
  | .mod32X f => Laws.OpcodeNamed.mod32X f
  | .xor32K f => Laws.OpcodeNamed.xor32K f
  | .xor32X f => Laws.OpcodeNamed.xor32X f
  | .mov32K f => Laws.OpcodeNamed.mov32K f
  | .mov32X f => Laws.OpcodeNamed.mov32X f
  | .arsh32K f => Laws.OpcodeNamed.arsh32K f
  | .arsh32X f => Laws.OpcodeNamed.arsh32X f
  | .neg32 f => Laws.OpcodeNamed.neg32 f
  | .le f c => Laws.OpcodeNamed.le f c
  | .be f c => Laws.OpcodeNamed.be f c
  | .lddw f c => Laws.OpcodeNamed.lddw f c
  | .ldxw f => Laws.OpcodeNamed.ldxw f
  | .ldxh f => Laws.OpcodeNamed.ldxh f
  | .ldxb f => Laws.OpcodeNamed.ldxb f
  | .ldxdw f => Laws.OpcodeNamed.ldxdw f
  | .stw f => Laws.OpcodeNamed.stw f
  | .sth f => Laws.OpcodeNamed.sth f
  | .stb f => Laws.OpcodeNamed.stb f
  | .stdw f => Laws.OpcodeNamed.stdw f
  | .stxw f => Laws.OpcodeNamed.stxw f
  | .stxh f => Laws.OpcodeNamed.stxh f
  | .stxb f => Laws.OpcodeNamed.stxb f
  | .stxdw f => Laws.OpcodeNamed.stxdw f
  | .ldabsw f => Laws.OpcodeNamed.ldabsw f
  | .ldabsh f => Laws.OpcodeNamed.ldabsh f
  | .ldabsb f => Laws.OpcodeNamed.ldabsb f
  | .ldindw f => Laws.OpcodeNamed.ldindw f
  | .ldindh f => Laws.OpcodeNamed.ldindh f
  | .ldindb f => Laws.OpcodeNamed.ldindb f
  | .xaddw f => Laws.OpcodeNamed.xaddw f
  | .xadddw f => Laws.OpcodeNamed.xadddw f
  | .ja f => Laws.OpcodeNamed.ja f
  | .jeqK f => Laws.OpcodeNamed.jeqK f
  | .jeqX f => Laws.OpcodeNamed.jeqX f
  | .jgtK f => Laws.OpcodeNamed.jgtK f
  | .jgtX f => Laws.OpcodeNamed.jgtX f
  | .jgeK f => Laws.OpcodeNamed.jgeK f
  | .jgeX f => Laws.OpcodeNamed.jgeX f
  | .jsetK f => Laws.OpcodeNamed.jsetK f
  | .jsetX f => Laws.OpcodeNamed.jsetX f
  | .jneK f => Laws.OpcodeNamed.jneK f
  | .jneX f => Laws.OpcodeNamed.jneX f
  | .jsgtK f => Laws.OpcodeNamed.jsgtK f
  | .jsgtX f => Laws.OpcodeNamed.jsgtX f
  | .jsgeK f => Laws.OpcodeNamed.jsgeK f
  | .jsgeX f => Laws.OpcodeNamed.jsgeX f
  | .jltK f => Laws.OpcodeNamed.jltK f
  | .jltX f => Laws.OpcodeNamed.jltX f
  | .jleK f => Laws.OpcodeNamed.jleK f
  | .jleX f => Laws.OpcodeNamed.jleX f
  | .jsltK f => Laws.OpcodeNamed.jsltK f
  | .jsltX f => Laws.OpcodeNamed.jsltX f
  | .jsleK f => Laws.OpcodeNamed.jsleK f
  | .jsleX f => Laws.OpcodeNamed.jsleX f
  | .jeq32K f => Laws.OpcodeNamed.jeq32K f
  | .jeq32X f => Laws.OpcodeNamed.jeq32X f
  | .jgt32K f => Laws.OpcodeNamed.jgt32K f
  | .jgt32X f => Laws.OpcodeNamed.jgt32X f
  | .jge32K f => Laws.OpcodeNamed.jge32K f
  | .jge32X f => Laws.OpcodeNamed.jge32X f
  | .jset32K f => Laws.OpcodeNamed.jset32K f
  | .jset32X f => Laws.OpcodeNamed.jset32X f
  | .jne32K f => Laws.OpcodeNamed.jne32K f
  | .jne32X f => Laws.OpcodeNamed.jne32X f
  | .jsgt32K f => Laws.OpcodeNamed.jsgt32K f
  | .jsgt32X f => Laws.OpcodeNamed.jsgt32X f
  | .jsge32K f => Laws.OpcodeNamed.jsge32K f
  | .jsge32X f => Laws.OpcodeNamed.jsge32X f
  | .jlt32K f => Laws.OpcodeNamed.jlt32K f
  | .jlt32X f => Laws.OpcodeNamed.jlt32X f
  | .jle32K f => Laws.OpcodeNamed.jle32K f
  | .jle32X f => Laws.OpcodeNamed.jle32X f
  | .jslt32K f => Laws.OpcodeNamed.jslt32K f
  | .jslt32X f => Laws.OpcodeNamed.jslt32X f
  | .jsle32K f => Laws.OpcodeNamed.jsle32K f
  | .jsle32X f => Laws.OpcodeNamed.jsle32X f
  | .call f => Laws.OpcodeNamed.call f
  | .exit f => Laws.OpcodeNamed.exit f

theorem named_opcode (i : Instr) : named i.opcode i.fields i.cont = some i := i.opcodeNamed.1

theorem wideWord_opcode (i : Instr) : wideWord i.opcode i.fields.imm = i.wide := i.opcodeNamed.2

/-- What `named` answers has the opcode and the fields it was given, and the continuation immediate if it holds
one. -/
theorem of_named {b0 : Byte} {f : Fields} {c : BitVec 32} {i : Instr} (h : named b0 f c = some i) :
    i.opcode = b0 ∧ i.fields = f ∧ (i.cont = c ∨ (i.cont = 0#32 ∧ i.wide = false)) := by
  have hb := b0.isLt
  have hbit : b0.extractLsb' 3 1 = 0#1 ∨ b0.extractLsb' 3 1 = 1#1 := by
    generalize b0.extractLsb' 3 1 = b; revert b; decide
  unfold named at h
  rcases hbit with hbit | hbit <;> simp only [hbit] at h <;> split at h <;>
    (simp [namedLd, namedLdx, namedSt, namedStx, namedAlu32, namedJmp, namedJmp32, namedAlu64, bySource,
      onlyBitZero, Config.srcImmBit] at h
     split at h <;> cases h <;>
      (refine ⟨?_, rfl, by first | exact .inl rfl | exact .inr ⟨rfl, rfl⟩⟩
       apply BitVec.eq_of_toNat_eq
       simp only [BitVec.extractLsb'_toNat, BitVec.toNat_eq] at *
       simp at *
       simp [Instr.opcode, aluOpcode, memOpcode, Config.srcImmBit]
       omega))

/-! ## The words -/

theorem nibbles_append (a b : BitVec 4) :
    (a ++ b).extractLsb' 0 4 = b ∧ (a ++ b).extractLsb' 4 4 = a := by
  revert a b; decide

@[simp] theorem dstNibble_regByte (o : ByteOrder) (f : Fields) : dstNibble o (regByte o f) = f.dst := by
  cases o
  · exact (nibbles_append f.src f.dst).1
  · exact (nibbles_append f.dst f.src).2

@[simp] theorem srcNibble_regByte (o : ByteOrder) (f : Fields) : srcNibble o (regByte o f) = f.src := by
  cases o
  · exact (nibbles_append f.src f.dst).2
  · exact (nibbles_append f.dst f.src).1

theorem append_nibbles (b : Byte) : (b.extractLsb' 4 4 ++ b.extractLsb' 0 4 : BitVec 8) = b := by
  revert b; decide

/-- Byte 1 is made of its two nibbles. -/
theorem regByte_ofNibbles (o : ByteOrder) (b : Byte) (off : BitVec 16) (imm : BitVec 32) :
    regByte o ⟨dstNibble o b, srcNibble o b, off, imm⟩ = b := by
  cases o <;> exact append_nibbles b

theorem ofNat_compose_split2 (o : ByteOrder) (v : BitVec 16) : BitVec.ofNat 16 (compose o (split o 2 v.toNat)) = v := by
  apply BitVec.eq_of_toNat_eq
  rw [compose_split, BitVec.toNat_ofNat]
  have := v.isLt
  omega

theorem ofNat_compose_split4 (o : ByteOrder) (v : BitVec 32) : BitVec.ofNat 32 (compose o (split o 4 v.toNat)) = v := by
  apply BitVec.eq_of_toNat_eq
  rw [compose_split, BitVec.toNat_ofNat]
  have := v.isLt
  omega

theorem split_ofNat_compose2 (o : ByteOrder) (a b : Byte) :
    split o 2 (BitVec.ofNat 16 (compose o [a, b])).toNat = [a, b] := by
  have h := compose_lt o [a, b]
  have hs := split_compose o [a, b]
  simp only [List.length_cons, List.length_nil] at h hs
  rw [BitVec.toNat_ofNat, Nat.mod_eq_of_lt (by omega)]
  exact hs

theorem split_ofNat_compose4 (o : ByteOrder) (a b c d : Byte) :
    split o 4 (BitVec.ofNat 32 (compose o [a, b, c, d])).toNat = [a, b, c, d] := by
  have h := compose_lt o [a, b, c, d]
  have hs := split_compose o [a, b, c, d]
  simp only [List.length_cons, List.length_nil] at h hs
  rw [BitVec.toNat_ofNat, Nat.mod_eq_of_lt (by omega)]
  exact hs

/-- A list of four elements, spelled out. -/
theorem exists_four {α : Type} {l : List α} (h : l.length = 4) : ∃ a b c d, l = [a, b, c, d] := by
  match l, h with
  | [a, b, c, d], _ => exact ⟨a, b, c, d, rfl⟩

theorem exists_two {α : Type} {l : List α} (h : l.length = 2) : ∃ a b, l = [a, b] := by
  match l, h with
  | [a, b], _ => exact ⟨a, b, rfl⟩

/-- The bytes of an encoded first word read back as its opcode and fields. -/
theorem encodeWord_bytes (o : ByteOrder) (b0 : Byte) (f : Fields) :
    ∃ b2 b3 b4 b5 b6 b7, encodeWord o b0 f = [b0, regByte o f, b2, b3, b4, b5, b6, b7] ∧
      Fields.ofBytes o (regByte o f) b2 b3 b4 b5 b6 b7 = f := by
  obtain ⟨b2, b3, h2⟩ := exists_two (length_split o 2 f.off.toNat)
  obtain ⟨b4, b5, b6, b7, h4⟩ := exists_four (length_split o 4 f.imm.toNat)
  refine ⟨b2, b3, b4, b5, b6, b7, by simp [encodeWord, h2, h4], ?_⟩
  have e2 := ofNat_compose_split2 o f.off
  have e4 := ofNat_compose_split4 o f.imm
  rw [h2] at e2
  rw [h4] at e4
  simp [Fields.ofBytes, e2, e4]

/-- The encoded first word of fields that were read from bytes is those bytes. -/
theorem encodeWord_ofBytes (o : ByteOrder) (b0 b1 b2 b3 b4 b5 b6 b7 : Byte) :
    encodeWord o b0 (Fields.ofBytes o b1 b2 b3 b4 b5 b6 b7) = [b0, b1, b2, b3, b4, b5, b6, b7] := by
  have h1 := regByte_ofNibbles o b1 (BitVec.ofNat 16 (compose o [b2, b3])) (BitVec.ofNat 32 (compose o [b4, b5, b6, b7]))
  simp only [Fields.ofBytes, encodeWord, split_ofNat_compose2, split_ofNat_compose4, h1]
  rfl

/-! ## The reading half -/

/-- Everything that reading an instruction says about its bytes. -/
theorem of_readInstr {o : ByteOrder} {bytes : List Byte} {i : Instr} (h : readInstr o bytes = .instr i) :
    ∃ b0 b1 b2 b3 b4 b5 b6 b7 rest, bytes = b0 :: b1 :: b2 :: b3 :: b4 :: b5 :: b6 :: b7 :: rest ∧
      i.opcode = b0 ∧ i.fields = Fields.ofBytes o b1 b2 b3 b4 b5 b6 b7 ∧
      ((i.wide = false ∧ i.cont = 0#32) ∨
        (i.wide = true ∧ ∃ c4 c5 c6 c7 more,
          rest = 0#8 :: 0#8 :: 0#8 :: 0#8 :: c4 :: c5 :: c6 :: c7 :: more ∧
            i.cont = BitVec.ofNat 32 (compose o [c4, c5, c6, c7]))) := by
  unfold readInstr at h
  split at h
  next b0 b1 b2 b3 b4 b5 b6 b7 rest =>
    refine ⟨b0, b1, b2, b3, b4, b5, b6, b7, rest, rfl, ?_⟩
    simp only at h
    have key : ∀ c, namedOrUnsupported b0 (Fields.ofBytes o b1 b2 b3 b4 b5 b6 b7) c = .instr i →
        i.opcode = b0 ∧ i.fields = Fields.ofBytes o b1 b2 b3 b4 b5 b6 b7 ∧
          (i.cont = c ∨ (i.cont = 0#32 ∧ i.wide = false)) ∧
          i.wide = wideWord b0 (Fields.ofBytes o b1 b2 b3 b4 b5 b6 b7).imm := by
      intro c hc
      unfold namedOrUnsupported at hc
      split at hc
      next j hj =>
        cases hc
        obtain ⟨h1, h2, h3⟩ := of_named hj
        exact ⟨h1, h2, h3, by rw [← wideWord_opcode, h1, h2]⟩
      next => cases hc
    split at h
    next hw =>
      split at h
      next c0 c1 c2 c3 c4 c5 c6 c7 more =>
        split at h
        next hz =>
          obtain ⟨rfl, rfl, rfl, rfl⟩ := hz
          obtain ⟨h1, h2, h3, h4⟩ := key _ h
          rw [hw] at h4
          refine ⟨h1, h2, .inr ⟨h4, c4, c5, c6, c7, more, rfl, ?_⟩⟩
          rcases h3 with h3 | ⟨-, h3⟩
          · exact h3
          · rw [h4] at h3; cases h3
        next => cases h
      next => cases h
    next hw =>
      obtain ⟨h1, h2, h3, h4⟩ := key _ h
      refine ⟨h1, h2, .inl ⟨by rw [h4]; simpa using hw, ?_⟩⟩
      rcases h3 with h3 | ⟨h3, -⟩ <;> exact h3
  next => cases h

/-- The checking half, inverted: what `decode` answers with is what was read, and no check rejected it. -/
theorem of_decode {o : ByteOrder} {hs : List HelperId} {bytes : List Byte} {i : Instr}
    (h : decode o hs bytes = .instr i) : readInstr o bytes = .instr i ∧ i.rejection hs = none := by
  unfold decode at h
  split at h
  next => cases h
  next j hj =>
    split at h
    next => cases h
    next hr => cases h; exact ⟨hj, hr⟩

end Sys2Proof
end

