-- ==== Sys2Proof/Laws/Memory.lean ====
section
/-! SUPPORT. The stack: reads after writes, and the canonical form. -/

namespace Sys2Proof.Machine

@[simp] theorem Memory.read_nil (x : Nat) : Memory.read [] x = Config.unlistedByte := rfl

theorem Memory.wfFrom_cons {lo a : Nat} {b : Byte} {m : Memory} :
    Memory.wfFrom lo ((a, b) :: m) = true ↔
      lo ≤ a ∧ a < Config.stackSize ∧ b ≠ Config.unlistedByte ∧ Memory.wfFrom (a + 1) m = true := by
  simp [Memory.wfFrom, and_assoc]

theorem Memory.wfFrom_mono {lo hi : Nat} (h : lo ≤ hi) {m : Memory} (hm : Memory.wfFrom hi m = true) :
    Memory.wfFrom lo m = true := by
  cases m with
  | nil => rfl
  | cons c m =>
    obtain ⟨h1, h2⟩ := Memory.wfFrom_cons.1 hm
    exact Memory.wfFrom_cons.2 ⟨h.trans h1, h2⟩

/-- Below its first address a canonical memory lists nothing. -/
theorem Memory.read_below {lo x : Nat} {m : Memory} (hm : Memory.wfFrom lo m = true) (hx : x < lo) :
    Memory.read m x = Config.unlistedByte := by
  induction m generalizing lo with
  | nil => rfl
  | cons c m ih =>
    obtain ⟨h1, -, -, h4⟩ := Memory.wfFrom_cons.1 hm
    have : c.1 ≠ x := by omega
    simp [Memory.read, this, ih h4 (by omega)]

/-- A canonical memory lists nothing at STACK_SIZE and above. -/
theorem Memory.read_above {lo x : Nat} {m : Memory} (hm : Memory.wfFrom lo m = true) (hx : Config.stackSize ≤ x) :
    Memory.read m x = Config.unlistedByte := by
  induction m generalizing lo with
  | nil => rfl
  | cons c m ih =>
    obtain ⟨-, h2, -, h4⟩ := Memory.wfFrom_cons.1 hm
    have : c.1 ≠ x := by omega
    simp [Memory.read, this, ih h4]

theorem Memory.wfFrom_entry {lo x : Nat} {v : Byte} {m : Memory} (hlo : lo ≤ x) (hx : x < Config.stackSize)
    (hm : Memory.wfFrom (x + 1) m = true) : Memory.wfFrom lo (Memory.entry x v m) = true := by
  unfold Memory.entry
  split
  · exact Memory.wfFrom_mono (by omega) hm
  · exact Memory.wfFrom_cons.2 ⟨hlo, hx, ‹_›, hm⟩

theorem Memory.read_entry {x y : Nat} {v : Byte} {m : Memory} (hm : Memory.wfFrom (x + 1) m = true) :
    Memory.read (Memory.entry x v m) y = if x = y then v else Memory.read m y := by
  unfold Memory.entry
  by_cases hv : v = Config.unlistedByte
  · by_cases hy : x = y
    · subst hy; simp [hv, Memory.read_below hm (Nat.lt_succ_self x)]
    · simp [hv, hy]
  · simp [hv, Memory.read]

/-- A write keeps the canonical form. -/
theorem Memory.wfFrom_write {lo x : Nat} {v : Byte} {m : Memory} (hm : Memory.wfFrom lo m = true)
    (hlo : lo ≤ x) (hx : x < Config.stackSize) : Memory.wfFrom lo (Memory.write m x v) = true := by
  induction m generalizing lo with
  | nil => exact Memory.wfFrom_entry hlo hx rfl
  | cons c m ih =>
    obtain ⟨a, b⟩ := c
    obtain ⟨h1, h2, h3, h4⟩ := Memory.wfFrom_cons.1 hm
    unfold Memory.write
    split
    · exact Memory.wfFrom_entry hlo hx (Memory.wfFrom_cons.2 ⟨by omega, h2, h3, h4⟩)
    · split
      · rename_i he; subst he
        exact Memory.wfFrom_entry hlo hx h4
      · exact Memory.wfFrom_cons.2 ⟨h1, h2, h3, ih h4 (by omega)⟩

theorem Memory.wf_write {m : Memory} (hm : m.wf = true) {x : Nat} (hx : x < Config.stackSize) (v : Byte) :
    (Memory.write m x v).wf = true :=
  Memory.wfFrom_write hm (Nat.zero_le x) hx

/-- In any memory, canonical or not, a byte other than the written one reads as before, and in a canonical one the
written byte reads as written. -/
theorem Memory.read_write_ne {m : Memory} {x y : Nat} (v : Byte) (h : x ≠ y) :
    Memory.read (Memory.write m x v) y = Memory.read m y := by
  have hentry : ∀ m' : Memory, Memory.read (Memory.entry x v m') y = Memory.read m' y := by
    intro m'
    unfold Memory.entry
    split
    · rfl
    · simp [Memory.read, h]
  induction m with
  | nil => simpa [Memory.write] using hentry []
  | cons c m ih =>
    obtain ⟨a, b⟩ := c
    unfold Memory.write
    split
    · exact hentry _
    · split
      · rename_i he; subst he
        simp [hentry, Memory.read, h]
      · simp [Memory.read, ih]

theorem Memory.read_write_self {lo x : Nat} {v : Byte} {m : Memory} (hm : Memory.wfFrom lo m = true) :
    Memory.read (Memory.write m x v) x = v := by
  induction m generalizing lo with
  | nil => simpa [Memory.write] using Memory.read_entry (x := x) (y := x) (v := v) (m := []) rfl
  | cons c m ih =>
    obtain ⟨a, b⟩ := c
    obtain ⟨h1, h2, h3, h4⟩ := Memory.wfFrom_cons.1 hm
    unfold Memory.write
    split
    · rw [Memory.read_entry (Memory.wfFrom_cons.2 ⟨by omega, h2, h3, h4⟩)]; simp
    · split
      · rename_i he; subst he
        rw [Memory.read_entry h4]; simp
      · have : a ≠ x := by omega
        simp [Memory.read, this, ih h4]

/-! ## Several bytes -/

@[simp] theorem Memory.length_readBytes (m : Memory) (a n : Nat) : (m.readBytes a n).length = n := by
  induction n generalizing a with
  | zero => rfl
  | succ n ih => simp [Memory.readBytes, ih]

theorem Memory.wf_writeBytes {m : Memory} (hm : m.wf = true) {a : Nat} (bs : List Byte)
    (h : a + bs.length ≤ Config.stackSize) : (m.writeBytes a bs).wf = true := by
  induction bs generalizing m a with
  | nil => exact hm
  | cons b bs ih =>
    simp only [List.length_cons] at h
    exact ih (Memory.wf_write hm (by omega) b) (by omega)

/-- Outside the written range every byte reads as before. -/
theorem Memory.read_writeBytes_outside (m : Memory) (a x : Nat) (bs : List Byte)
    (h : x < a ∨ a + bs.length ≤ x) : (m.writeBytes a bs).read x = m.read x := by
  induction bs generalizing m a with
  | nil => rfl
  | cons b bs ih =>
    simp only [List.length_cons] at h
    rw [Memory.writeBytes, ih _ _ (by omega), Memory.read_write_ne b (by omega)]

/-- The written range reads as the bytes written. -/
theorem Memory.readBytes_writeBytes {m : Memory} (hm : m.wf = true) {a : Nat} (bs : List Byte)
    (h : a + bs.length ≤ Config.stackSize) : (m.writeBytes a bs).readBytes a bs.length = bs := by
  induction bs generalizing m a with
  | nil => rfl
  | cons b bs ih =>
    simp only [List.length_cons] at h ⊢
    have h0 : (m.writeBytes a (b :: bs)).read a = b := by
      rw [Memory.writeBytes, Memory.read_writeBytes_outside _ _ _ _ (by omega)]
      exact Memory.read_write_self hm
    rw [Memory.readBytes, h0, Memory.writeBytes, ih (Memory.wf_write hm (by omega) b) (by omega)]

theorem Memory.getElem?_readBytes (m : Memory) (a n k : Nat) (hk : k < n) :
    (m.readBytes a n)[k]? = some (m.read (a + k)) := by
  induction n generalizing a k with
  | zero => omega
  | succ n ih =>
    cases k with
    | zero => rfl
    | succ k =>
      rw [Memory.readBytes, List.getElem?_cons_succ, ih _ _ (by omega)]
      congr 2; omega

/-! ## A tabulated memory -/

theorem Memory.wfFrom_tabulate (g : Nat → Byte) (a n : Nat) (h : a + n ≤ Config.stackSize) :
    Memory.wfFrom a (Memory.tabulate g a n) = true := by
  induction n generalizing a with
  | zero => rfl
  | succ n ih => exact Memory.wfFrom_entry le_rfl (by omega) (ih (a + 1) (by omega))

theorem Memory.wf_tabulate (g : Nat → Byte) (n : Nat) (h : n ≤ Config.stackSize) :
    (Memory.tabulate g 0 n).wf = true := Memory.wfFrom_tabulate g 0 n (by omega)

theorem Memory.read_tabulate (g : Nat → Byte) (a n x : Nat) (h : a + n ≤ Config.stackSize) (hx : a ≤ x)
    (hxn : x < a + n) : (Memory.tabulate g a n).read x = g x := by
  induction n generalizing a with
  | zero => omega
  | succ n ih =>
    rw [Memory.tabulate, Memory.read_entry (Memory.wfFrom_tabulate g (a + 1) n (by omega))]
    by_cases hax : a = x
    · simp [hax]
    · simp [hax, ih (a + 1) (by omega) (by omega) (by omega)]

/-- Equal canonical memories are those that read alike. -/
theorem Memory.ext_of_wfFrom {lo : Nat} {m m' : Memory} (hm : Memory.wfFrom lo m = true)
    (hm' : Memory.wfFrom lo m' = true) (h : ∀ x, m.read x = m'.read x) : m = m' := by
  induction m generalizing lo m' with
  | nil =>
    cases m' with
    | nil => rfl
    | cons c m' =>
      obtain ⟨-, -, h3, -⟩ := Memory.wfFrom_cons.1 hm'
      exact absurd (by simpa [Memory.read] using (h c.1).symm) h3
  | cons c m ih =>
    obtain ⟨a, b⟩ := c
    obtain ⟨h1, h2, h3, h4⟩ := Memory.wfFrom_cons.1 hm
    cases m' with
    | nil => exact absurd (by simpa [Memory.read] using h a) h3
    | cons c' m' =>
      obtain ⟨a', b'⟩ := c'
      obtain ⟨k1, k2, k3, k4⟩ := Memory.wfFrom_cons.1 hm'
      have haa : a = a' := by
        rcases Nat.lt_trichotomy a a' with hlt | heq | hgt
        · have := h a
          rw [Memory.read_below (m := (a', b') :: m') (lo := a')
            (Memory.wfFrom_cons.2 ⟨le_rfl, k2, k3, k4⟩) hlt] at this
          exact absurd (by simpa [Memory.read] using this) h3
        · exact heq
        · have := h a'
          rw [Memory.read_below (m := (a, b) :: m) (lo := a)
            (Memory.wfFrom_cons.2 ⟨le_rfl, h2, h3, h4⟩) hgt] at this
          exact absurd (by simpa [Memory.read] using this.symm) k3
      subst haa
      have hbb : b = b' := by simpa [Memory.read] using h a
      subst hbb
      have : m = m' := by
        refine ih h4 k4 fun x => ?_
        by_cases hx : a = x
        · subst hx
          rw [Memory.read_below h4 (Nat.lt_succ_self a), Memory.read_below k4 (Nat.lt_succ_self a)]
        · simpa [Memory.read, hx] using h x
      rw [this]

end Sys2Proof.Machine
end

