-- ==== Sys2Proof/Laws/State.lean ====
section
/-! SUPPORT. One lemma per field and update, so that no later proof unfolds a record update. -/

namespace Sys2Proof.Machine

@[simp] theorem State.setReg_regs (s : State) (i : RegId) (v : Word) : (s.setReg i v).regs = s.regs.setIfInBounds i.toNat v := rfl
@[simp] theorem State.setReg_pc (s : State) (i : RegId) (v : Word) : (s.setReg i v).pc = s.pc := rfl
@[simp] theorem State.setReg_stack (s : State) (i : RegId) (v : Word) : (s.setReg i v).stack = s.stack := rfl
@[simp] theorem State.setReg_byteOrder (s : State) (i : RegId) (v : Word) : (s.setReg i v).byteOrder = s.byteOrder := rfl
@[simp] theorem State.setReg_status (s : State) (i : RegId) (v : Word) : (s.setReg i v).status = s.status := rfl
@[simp] theorem State.setReg_fault (s : State) (i : RegId) (v : Word) : (s.setReg i v).fault = s.fault := rfl
@[simp] theorem State.setReg_prog (s : State) (i : RegId) (v : Word) : (s.setReg i v).prog = s.prog := rfl
@[simp] theorem State.setReg_helpers (s : State) (i : RegId) (v : Word) : (s.setReg i v).helpers = s.helpers := rfl
@[simp] theorem State.setReg_draws (s : State) (i : RegId) (v : Word) : (s.setReg i v).draws = s.draws := rfl

@[simp] theorem State.advance_regs (s : State) (n : Int) : (s.advance n).regs = s.regs := rfl
@[simp] theorem State.advance_pc (s : State) (n : Int) : (s.advance n).pc = s.pc + n := rfl
@[simp] theorem State.advance_stack (s : State) (n : Int) : (s.advance n).stack = s.stack := rfl
@[simp] theorem State.advance_byteOrder (s : State) (n : Int) : (s.advance n).byteOrder = s.byteOrder := rfl
@[simp] theorem State.advance_status (s : State) (n : Int) : (s.advance n).status = s.status := rfl
@[simp] theorem State.advance_fault (s : State) (n : Int) : (s.advance n).fault = s.fault := rfl
@[simp] theorem State.advance_prog (s : State) (n : Int) : (s.advance n).prog = s.prog := rfl
@[simp] theorem State.advance_helpers (s : State) (n : Int) : (s.advance n).helpers = s.helpers := rfl
@[simp] theorem State.advance_draws (s : State) (n : Int) : (s.advance n).draws = s.draws := rfl

@[simp] theorem State.takeFault_regs (s : State) (k : FaultKind) : (s.takeFault k).regs = s.regs := rfl
@[simp] theorem State.takeFault_pc (s : State) (k : FaultKind) : (s.takeFault k).pc = s.pc := rfl
@[simp] theorem State.takeFault_stack (s : State) (k : FaultKind) : (s.takeFault k).stack = s.stack := rfl
@[simp] theorem State.takeFault_byteOrder (s : State) (k : FaultKind) : (s.takeFault k).byteOrder = s.byteOrder := rfl
@[simp] theorem State.takeFault_status (s : State) (k : FaultKind) : (s.takeFault k).status = .faulted := rfl
@[simp] theorem State.takeFault_fault (s : State) (k : FaultKind) : (s.takeFault k).fault = some ⟨k, s.pc, s.rawBytes⟩ := rfl
@[simp] theorem State.takeFault_prog (s : State) (k : FaultKind) : (s.takeFault k).prog = s.prog := rfl
@[simp] theorem State.takeFault_helpers (s : State) (k : FaultKind) : (s.takeFault k).helpers = s.helpers := rfl
@[simp] theorem State.takeFault_draws (s : State) (k : FaultKind) : (s.takeFault k).draws = s.draws := rfl

@[simp] theorem State.resetWith_regs (inp : Inputs) : (State.resetWith inp).regs = inp.initRegs.push 512#64 := rfl
@[simp] theorem State.resetWith_pc (inp : Inputs) : (State.resetWith inp).pc = 0 := rfl
@[simp] theorem State.resetWith_stack (inp : Inputs) : (State.resetWith inp).stack = inp.initStack := rfl
@[simp] theorem State.resetWith_byteOrder (inp : Inputs) : (State.resetWith inp).byteOrder = inp.byteOrder := rfl
@[simp] theorem State.resetWith_status (inp : Inputs) : (State.resetWith inp).status = .running := rfl
@[simp] theorem State.resetWith_fault (inp : Inputs) : (State.resetWith inp).fault = none := rfl
@[simp] theorem State.resetWith_prog (inp : Inputs) : (State.resetWith inp).prog = inp.prog := rfl
@[simp] theorem State.resetWith_helpers (inp : Inputs) : (State.resetWith inp).helpers = inp.helpers := rfl
@[simp] theorem State.resetWith_draws (inp : Inputs) : (State.resetWith inp).draws = inp.firstDraw := rfl

/-! ## Register reads -/

theorem State.reg?_of_le (s : State) {i : RegId} (h : i.toNat ≤ 10) : s.reg? i = some (s.reg i) := by
  have : i.toNat < 11 := by omega
  simp [State.reg, State.reg?, this]

theorem State.reg?_of_lt (s : State) {i : RegId} (h : 10 < i.toNat) : s.reg? i = none := by
  simp [State.reg?]; omega

/-- Reading a register after a register write. -/
theorem State.reg_setReg (s : State) (i j : RegId) (v : Word) (hi : i.toNat ≤ 10) :
    (s.setReg i v).reg j = if i = j then v else s.reg j := by
  have hi' : i.toNat < 11 := by omega
  simp only [State.reg, State.reg?, State.setReg_regs]
  by_cases h : i = j
  · subst h; simp [hi']
  · have h' : i.toNat ≠ j.toNat := fun e => h (BitVec.eq_of_toNat_eq e)
    simp [Vector.getElem?_setIfInBounds_ne, h, h']

@[simp] theorem State.reg_advance (s : State) (n : Int) (j : RegId) : (s.advance n).reg j = s.reg j := rfl
@[simp] theorem State.reg_takeFault (s : State) (k : FaultKind) (j : RegId) : (s.takeFault k).reg j = s.reg j := rfl

/-- The fetch looks at `pc`, `prog` and `byteOrder` only. -/
theorem State.rawBytes_congr {s t : State} (hp : t.pc = s.pc) (hg : t.prog = s.prog)
    (ho : t.byteOrder = s.byteOrder) : t.rawBytes = s.rawBytes := by
  simp [State.rawBytes, State.fetchBytes, hp, hg, ho]

@[simp] theorem State.rawBytes_takeFault (s : State) (k : FaultKind) : (s.takeFault k).rawBytes = s.rawBytes := rfl

end Sys2Proof.Machine
end

