-- ==== Sys2Proof/Laws/Helpers.lean ====
section
/-! SUPPORT. Helper effects: what an outcome leaves, which ids are keys, and that every effect relation of the spec is
the relation of some `HelperEffect`. -/

namespace Sys2Proof.Machine

/-! ## The table -/

/-- An id decodes exactly where the table gives it an effect. -/
theorem mem_helperIds {s : State} {id : HelperId} : id ∈ s.helperIds ↔ ∃ e, s.helpers.lookup id = some e := by
  unfold State.helperIds
  induction s.helpers with
  | nil => simp
  | cons p l ih =>
    obtain ⟨a, e⟩ := p
    by_cases h : id = a
    · subst h; simp
    · have h' : (id == a) = false := by simpa using h
      simp [List.lookup_cons, h', h, ih]

theorem mem_of_lookup {l : HelperTable} {id : HelperId} {e : HelperEffect} (h : l.lookup id = some e) : (id, e) ∈ l := by
  induction l with
  | nil => simp at h
  | cons p l ih =>
    obtain ⟨a, x⟩ := p
    by_cases ha : id = a
    · subst ha
      simp only [List.lookup_cons, beq_self_eq_true, Option.some.injEq] at h
      simp [h]
    · have ha' : (id == a) = false := by simpa using ha
      simp only [List.lookup_cons, ha'] at h
      exact List.mem_cons_of_mem _ (ih h)

/-! ## The registers -/

theorem replaceLow_low (regs : Vector Word 11) (low : Vector Word 6) {j : Nat} (h : j ≤ 5) :
    (replaceLow regs low)[j]? = low[j]? := by
  have : j = 0 ∨ j = 1 ∨ j = 2 ∨ j = 3 ∨ j = 4 ∨ j = 5 := by omega
  rcases this with h | h | h | h | h | h <;> subst h <;> simp [replaceLow]

/-- x[6] to x[10] survive a helper (44_jump.md R276). -/
theorem replaceLow_high (regs : Vector Word 11) (low : Vector Word 6) {j : Nat} (h : 5 < j) :
    (replaceLow regs low)[j]? = regs[j]? := by
  simp only [replaceLow]
  rw [Vector.getElem?_setIfInBounds_ne (by omega), Vector.getElem?_setIfInBounds_ne (by omega),
    Vector.getElem?_setIfInBounds_ne (by omega), Vector.getElem?_setIfInBounds_ne (by omega),
    Vector.getElem?_setIfInBounds_ne (by omega), Vector.getElem?_setIfInBounds_ne (by omega)]

theorem helperRegs_low (s : State) (id : HelperId) (e : HelperEffect) {j : Nat} (h : j ≤ 5) :
    (s.helperRegs id e)[j]? = (s.helperOutcome id e).regs[j]? := replaceLow_low _ _ h

theorem helperRegs_high (s : State) (id : HelperId) (e : HelperEffect) {j : Nat} (h : 5 < j) :
    (s.helperRegs id e)[j]? = s.regs[j]? := replaceLow_high _ _ h

/-- An outcome's registers are the values of the effect's expressions. -/
theorem outcome_regs (e : HelperEffect) (args : HelperArgs) (stack : Memory) (w : Nat → Word) (b : Nat → Byte) {k : Nat}
    (h : k < 6) : (e.outcome args stack w b).regs[k] = e.regs[k].eval args stack.read w := by
  have : k = 0 ∨ k = 1 ∨ k = 2 ∨ k = 3 ∨ k = 4 ∨ k = 5 := by omega
  rcases this with h | h | h | h | h | h <;> subst h <;> rfl

/-! ## The stack -/

theorem wf_store {m : Memory} (hm : m.wf = true) (a v : Word) : (HelperEffect.store m a v).wf = true := by
  unfold HelperEffect.store
  split
  · exact Memory.wf_write hm ‹_› _
  · exact hm

theorem read_store_ne (m : Memory) (a v : Word) {x : Nat} (h : a.toNat ≠ x) :
    (HelperEffect.store m a v).read x = m.read x := by
  unfold HelperEffect.store
  split
  · exact Memory.read_write_ne _ h
  · rfl

theorem read_store_self {m : Memory} (hm : m.wf = true) {a : Word} (v : Word) (h : a.toNat < 512) :
    (HelperEffect.store m a v).read a.toNat = v.setWidth 8 := by
  unfold HelperEffect.store
  rw [if_pos h]
  exact Memory.read_write_self hm

/-- An outcome's stack has the canonical form if the stack before had it. -/
theorem wf_outcome_stack (e : HelperEffect) (args : HelperArgs) {stack : Memory} (hm : stack.wf = true) (w : Nat → Word)
    (b : Nat → Byte) : (e.outcome args stack w b).stack.wf = true := by
  have hbase : (if e.keepsStack then stack else Memory.tabulate b 0 Config.stackSize).wf = true := by
    split
    · exact hm
    · exact Memory.wf_tabulate _ _ le_rfl
  simp only [HelperEffect.outcome]
  generalize (if e.keepsStack then stack else Memory.tabulate b 0 Config.stackSize) = m at hbase
  induction e.stores generalizing m with
  | nil => exact hbase
  | cons p l ih => exact ih _ (wf_store hbase _ _)

theorem wf_helperStack {s : State} (hm : s.stack.wf = true) (id : HelperId) (e : HelperEffect) :
    (s.helperStack id e).wf = true := wf_outcome_stack e _ hm _ _

/-! ## Functional effects -/

/-- A closed expression does not depend on the free words. -/
theorem eval_closed {x : HelperExpr} (h : x.closed = true) (args : HelperArgs) (byteAt : Nat → Byte)
    (w w' : Nat → Word) : x.eval args byteAt w = x.eval args byteAt w' := by
  induction x with
  | const v => rfl
  | arg a => rfl
  | byte a ih => simp only [HelperExpr.eval, ih h]
  | free k => simp [HelperExpr.closed] at h
  | op o l r ihl ihr =>
    simp only [HelperExpr.closed, Bool.and_eq_true] at h
    simp only [HelperExpr.eval, ihl h.1, ihr h.2]
  | ite c t e ihc iht ihe =>
    simp only [HelperExpr.closed, Bool.and_eq_true] at h
    simp only [HelperExpr.eval, ihc h.1.1, iht h.1.2, ihe h.2]

/-- A functional effect has one outcome. -/
theorem outcome_functional {e : HelperEffect} (h : e.functional = true) (args : HelperArgs) (stack : Memory)
    (w w' : Nat → Word) (b b' : Nat → Byte) : e.outcome args stack w b = e.outcome args stack w' b' := by
  simp only [HelperEffect.functional, Bool.and_eq_true, List.all_eq_true] at h
  obtain ⟨⟨hr, hk⟩, hs⟩ := h
  have hregs : (e.outcome args stack w b).regs = (e.outcome args stack w' b').regs := by
    refine Vector.ext fun i hi => ?_
    rw [outcome_regs _ _ _ _ _ hi, outcome_regs _ _ _ _ _ hi]
    exact eval_closed (hr _ (by simp)) args stack.read w w'
  have hstack : ∀ m : Memory,
      e.stores.foldl (fun m p => HelperEffect.store m (p.1.eval args stack.read w) (p.2.eval args stack.read w)) m =
        e.stores.foldl
          (fun m p => HelperEffect.store m (p.1.eval args stack.read w') (p.2.eval args stack.read w')) m := by
    generalize e.stores = l at hs
    induction l with
    | nil => exact fun _ => rfl
    | cons p l ih =>
      intro m
      have hp := hs p (by simp)
      rw [List.foldl_cons, List.foldl_cons, eval_closed hp.1 args stack.read w w',
        eval_closed hp.2 args stack.read w w']
      exact ih (fun q hq => hs q (by simp [hq])) _
  have hst : (e.outcome args stack w b).stack = (e.outcome args stack w' b').stack := by
    simp only [HelperEffect.outcome, hk, if_true, hstack]
  calc e.outcome args stack w b = ⟨(e.outcome args stack w b).regs, (e.outcome args stack w b).stack⟩ := rfl
    _ = ⟨(e.outcome args stack w' b').regs, (e.outcome args stack w' b').stack⟩ := by rw [hregs, hst]
    _ = e.outcome args stack w' b' := rfl

/-! ## Every relation is an effect

HELPERS of the spec is a map to relations; these lemmas say that `HelperEffect` leaves none of them out. -/

/-- Any function of the values of finitely many expressions is the value of an expression. -/
theorem exists_expr (atoms : List HelperExpr) (g : List Word → Word) : ∃ x : HelperExpr,
    ∀ args byteAt w, x.eval args byteAt w = g (atoms.map (·.eval args byteAt w)) := by
  induction atoms generalizing g with
  | nil => exact ⟨.const (g []), fun _ _ _ => rfl⟩
  | cons a atoms ih =>
    choose x hx using fun v : Word => ih fun l => g (v :: l)
    have cover : ∀ vs : List Word, ∃ y : HelperExpr, ∀ args byteAt w, a.eval args byteAt w ∈ vs →
        y.eval args byteAt w = g ((a :: atoms).map (·.eval args byteAt w)) := by
      intro vs
      induction vs with
      | nil => exact ⟨.const 0#64, fun _ _ _ h => by simp at h⟩
      | cons v vs ihv =>
        obtain ⟨y, hy⟩ := ihv
        refine ⟨.ite (.op .eq a (.const v)) (x v) y, fun args byteAt w h => ?_⟩
        by_cases hav : a.eval args byteAt w = v
        · simp [HelperExpr.eval, HelperOp.eval, hav, hx]
        · simpa [HelperExpr.eval, HelperOp.eval, hav] using
            hy args byteAt w ((List.mem_cons.1 h).resolve_left hav)
    obtain ⟨y, hy⟩ := cover Finset.univ.toList
    exact ⟨y, fun args byteAt w => hy args byteAt w (by simp)⟩

/-- The values an effect can look at: the five arguments, the 512 stack bytes, and 518 free words. -/
def atom (i : Nat) : HelperExpr :=
  if i < 5 then .arg ([HelperArg.a1, .a2, .a3, .a4, .a5].getD i .a1)
  else if i < 517 then .byte (.const (BitVec.ofNat 64 (i - 5)))
  else .free (i - 517)

/-- Any function of the arguments, the stack bytes and 518 free words is the value of an expression. -/
theorem exists_expr_of_function (g : HelperArgs → (Fin 512 → Byte) → (Fin 518 → Word) → Word) :
    ∃ x : HelperExpr, ∀ args byteAt w, x.eval args byteAt w = g args (fun i => byteAt i) (fun k => w k) := by
  obtain ⟨x, hx⟩ := exists_expr ((List.range 1035).map atom) fun l =>
    g ⟨l.getD 0 0#64, l.getD 1 0#64, l.getD 2 0#64, l.getD 3 0#64, l.getD 4 0#64⟩
      (fun i => (l.getD (5 + i) 0#64).setWidth 8) (fun k => l.getD (517 + k) 0#64)
  refine ⟨x, fun args byteAt w => ?_⟩
  rw [hx]
  obtain ⟨l, hl⟩ : ∃ l, l = ((List.range 1035).map atom).map (·.eval args byteAt w) := ⟨_, rfl⟩
  have hget : ∀ i < 1035, l.getD i 0#64 = (atom i).eval args byteAt w := by
    intro i hi
    simp [hl, List.getD, hi]
  rw [← hl]
  have hb : (fun i : Fin 512 => ((atom (5 + i)).eval args byteAt w).setWidth 8) = fun i : Fin 512 => byteAt i := by
    funext i
    have h1 : ¬(5 + i.val < 5) := by omega
    have h2 : 5 + i.val < 517 := by omega
    have h3 : i.val % 2 ^ 64 = i.val := Nat.mod_eq_of_lt (by omega)
    simp only [atom, h1, h2, if_true, if_false, HelperExpr.eval, Nat.add_sub_cancel_left, BitVec.toNat_ofNat, h3,
      Config.stackSize, i.isLt]
    exact BitVec.setWidth_setWidth_of_le _ (by omega)
  have hw : (fun k : Fin 518 => (atom (517 + k)).eval args byteAt w) = fun k : Fin 518 => w k := by
    funext k
    have h1 : ¬(517 + k.val < 5) := by omega
    have h2 : ¬(517 + k.val < 517) := by omega
    simp only [atom, h1, h2, if_false, HelperExpr.eval, Nat.add_sub_cancel_left]
  have hb' : (fun i : Fin 512 => (l.getD (5 + i) 0#64).setWidth 8) = fun i : Fin 512 => byteAt i := by
    rw [← hb]; funext i; rw [hget _ (by omega)]
  have hw' : (fun k : Fin 518 => l.getD (517 + k) 0#64) = fun k : Fin 518 => w k := by
    rw [← hw]; funext k; rw [hget _ (by omega)]
  rw [hb', hw', hget 0 (by omega), hget 1 (by omega), hget 2 (by omega), hget 3 (by omega), hget 4 (by omega)]
  simp [atom, HelperExpr.eval, HelperArgs.get]

/-- The stores of a value at every address: each byte reads as its value. -/
theorem read_stores (f : Nat → Word) (l : List Nat) (hl : ∀ i ∈ l, i < 512) {m : Memory} (hm : m.wf = true) (x : Nat) :
    (l.foldl (fun m i => HelperEffect.store m (BitVec.ofNat 64 i) (f i)) m).read x =
      if x ∈ l then (f x).setWidth 8 else m.read x := by
  induction l generalizing m with
  | nil => rfl
  | cons i l ih =>
    have hi : (BitVec.ofNat 64 i).toNat = i := by
      have := hl i (by simp)
      simp only [BitVec.toNat_ofNat]; omega
    rw [List.foldl_cons, ih (fun j hj => hl j (by simp [hj])) (wf_store hm _ _)]
    by_cases hx : x ∈ l
    · simp [hx]
    · by_cases hxi : x = i
      · subst hxi
        have := read_store_self hm (a := BitVec.ofNat 64 x) (f x) (by rw [hi]; exact hl x (by simp))
        rw [hi] at this
        simp [hx, this]
      · simp [hx, hxi, read_store_ne m _ (f i) (x := x) (by rw [hi]; omega)]

/-- 44_jump.md R276 makes HELPERS a map to relations that allow one or more outcomes. Whatever such a relation is, some
`HelperEffect` allows exactly its outcomes. -/
theorem exists_effect_of_relation
    (rel : HelperArgs → (Fin 512 → Byte) → Vector Word 6 → (Fin 512 → Byte) → Prop)
    (hrel : ∀ args bytes, ∃ regs bytes', rel args bytes regs bytes') :
    ∃ e : HelperEffect, ∀ (args : HelperArgs) (stack : Memory) (o : HelperOutcome), stack.wf = true →
      (e.Allows args stack o ↔
        o.stack.wf = true ∧ rel args (fun i => stack.read i) o.regs (fun i => o.stack.read i)) := by
  classical
  choose dr db hd using hrel
  let cr : (Fin 518 → Word) → Vector Word 6 := fun w => Vector.ofFn fun i : Fin 6 => w ⟨i, by omega⟩
  let cb : (Fin 518 → Word) → Fin 512 → Byte := fun w i => (w ⟨6 + i, by omega⟩).setWidth 8
  let fr := fun args bytes w => if rel args bytes (cr w) (cb w) then cr w else dr args bytes
  let fb := fun args bytes w => if rel args bytes (cr w) (cb w) then cb w else db args bytes
  have hf : ∀ args bytes w, rel args bytes (fr args bytes w) (fb args bytes w) := by
    intro args bytes w
    by_cases h : rel args bytes (cr w) (cb w)
    · simp [fr, fb, h]
    · simp [fr, fb, h, hd]
  choose xr hxr using fun i : Fin 6 => exists_expr_of_function fun args bytes w => (fr args bytes w)[i]
  choose xb hxb using fun i : Nat => exists_expr_of_function fun args bytes w =>
    if h : i < 512 then (fb args bytes w ⟨i, h⟩).setWidth 64 else 0#64
  let e : HelperEffect := ⟨Vector.ofFn xr, true, (List.range 512).map fun i => (.const (BitVec.ofNat 64 i), xb i)⟩
  have hregs : ∀ args stack w b, (e.outcome args stack w b).regs = fr args (fun i => stack.read i) (fun k => w k) := by
    intro args stack w b
    refine Vector.ext fun i hi => ?_
    rw [outcome_regs _ _ _ _ _ hi]
    simp [e, hxr]
  have hread : ∀ args (stack : Memory) w b (i : Fin 512), stack.wf = true →
      (e.outcome args stack w b).stack.read i = fb args (fun i => stack.read i) (fun k => w k) i := by
    intro args stack w b i hm
    simp only [e, HelperEffect.outcome, List.foldl_map, if_true, HelperExpr.eval]
    rw [read_stores (fun i => (xb i).eval args stack.read w) (List.range 512) (by simp) hm]
    simp [hxb]
  clear_value e
  refine ⟨e, fun args stack o hm => ⟨?_, ?_⟩⟩
  · rintro ⟨w, b, rfl⟩
    refine ⟨wf_outcome_stack e args hm w b, ?_⟩
    rw [hregs, show (fun i : Fin 512 => (e.outcome args stack w b).stack.read i) = _ from
      funext fun i => hread args stack w b i hm]
    exact hf args (fun i => stack.read i) (fun k => w k)
  · rintro ⟨hw, hr⟩
    let w : Nat → Word := fun k => if h : k < 6 then o.regs[k] else (o.stack.read (k - 6)).setWidth 64
    have hcr : cr (fun k => w k) = o.regs := by
      ext i hi
      simp [cr, w]
    have hcb : cb (fun k => w k) = fun i : Fin 512 => o.stack.read i := by
      funext i
      simp only [cb, w, show ¬(6 + i.val < 6) by omega, dif_neg, not_false_eq_true, Nat.add_sub_cancel_left]
      exact BitVec.setWidth_setWidth_of_le _ (by omega)
    refine ⟨w, fun _ => 0#8, ?_⟩
    have h1 : (e.outcome args stack w fun _ => 0#8).regs = o.regs := by
      rw [hregs]; simp [fr, hcr, hcb, hr]
    have h2 : (e.outcome args stack w fun _ => 0#8).stack = o.stack := by
      refine Memory.ext_of_wfFrom (wf_outcome_stack e args hm w _) hw fun x => ?_
      by_cases hx : x < Config.stackSize
      · rw [hread args stack w _ ⟨x, hx⟩ hm]; simp [fb, hcr, hcb, hr]
      · rw [Memory.read_above (wf_outcome_stack e args hm w _) (not_lt.1 hx),
          Memory.read_above hw (not_lt.1 hx)]
    cases o
    simp only at h1 h2
    rw [← h1, ← h2]

end Sys2Proof.Machine
end

