-- ==== Sys2Proof/Laws/Ops.lean ====
section
/-! SUPPORT. One specification lemma per shared operation: what it answers, by the operands' register ids and the
bounds check. -/

namespace Sys2Proof.Machine

/-! ## Registers -/

theorem withReg_valid (s : State) {i : RegId} (h : i.toNat ≤ 10) (k : Word → Result) :
    withReg s i k = k (s.reg i) := by
  simp [withReg, State.reg?_of_le s h]

theorem withReg_invalid (s : State) {i : RegId} (h : 10 < i.toNat) (k : Word → Result) :
    withReg s i k = raise s .invalidRegister := by
  simp [withReg, State.reg?_of_lt s h]

theorem writeDst_low (s : State) {i : RegId} (h : i.toNat < 10) (v : Word) (n : Int) :
    writeDst s i v n = .next ((s.setReg i v).advance n) := by
  simp [writeDst, show ¬10 < i.toNat by omega, show ¬i.toNat = 10 by omega]

theorem writeDst_frame (s : State) {i : RegId} (h : i.toNat = 10) (v : Word) (n : Int) :
    writeDst s i v n = raise s .frameRegisterWriteViolation := by
  simp [writeDst, h]

theorem writeDst_invalid (s : State) {i : RegId} (h : 10 < i.toNat) (v : Word) (n : Int) :
    writeDst s i v n = raise s .invalidRegister := by
  simp [writeDst, h]

/-! ## Bounds -/

theorem inBounds_iff {addr : Int} {n : Nat} :
    inBounds addr n = true ↔ 0 ≤ addr ∧ addr + n ≤ 512 := by
  simp [inBounds]

theorem toNat_add_le_of_inBounds {addr : Int} {n : Nat} (h : inBounds addr n = true) : addr.toNat + n ≤ 512 := by
  have := inBounds_iff.1 h
  omega

theorem memRead_inside (s : State) {addr : Int} {n : Nat} (h : inBounds addr n = true) :
    s.memRead addr n = some (BitVec.ofNat 64 (compose s.byteOrder (s.stack.readBytes addr.toNat n))) := by
  simp [State.memRead, h]

theorem memRead_outside (s : State) {addr : Int} {n : Nat} (h : inBounds addr n = false) : s.memRead addr n = none := by
  simp [State.memRead, h]

theorem memWrite_inside (s : State) {addr : Int} {n : Nat} (v : Word) (h : inBounds addr n = true) :
    s.memWrite addr n v =
      some { s with stack := s.stack.writeBytes addr.toNat (split s.byteOrder n v.toNat) } := by
  simp [State.memWrite, h]

theorem memWrite_outside (s : State) {addr : Int} {n : Nat} (v : Word) (h : inBounds addr n = false) :
    s.memWrite addr n v = none := by
  simp [State.memWrite, h]

/-! ## Shapes -/

theorem alu64K_valid (op : Word → Word → Word) (f : Fields) (s : State) (h : f.dst.toNat ≤ 10) :
    alu64K op f s = writeDst s f.dst (op (s.reg f.dst) (immOperand f)) 1 := withReg_valid s h _

theorem alu64X_valid (op : Word → Word → Word) (f : Fields) (s : State) (h : f.dst.toNat ≤ 10)
    (h' : f.src.toNat ≤ 10) : alu64X op f s = writeDst s f.dst (op (s.reg f.dst) (s.reg f.src)) 1 := by
  simp [alu64X, withReg_valid, h, h']

theorem alu32K_valid (op : BitVec 32 → BitVec 32 → BitVec 32) (f : Fields) (s : State) (h : f.dst.toNat ≤ 10) :
    alu32K op f s = writeDst s f.dst ((op (low32 (s.reg f.dst)) f.imm).setWidth 64) 1 := withReg_valid s h _

theorem alu32X_valid (op : BitVec 32 → BitVec 32 → BitVec 32) (f : Fields) (s : State) (h : f.dst.toNat ≤ 10)
    (h' : f.src.toNat ≤ 10) :
    alu32X op f s = writeDst s f.dst ((op (low32 (s.reg f.dst)) (low32 (s.reg f.src))).setWidth 64) 1 := by
  simp [alu32X, withReg_valid, h, h']

theorem swapTo_valid (o : ByteOrder) (c : Word) (n : Int) (f : Fields) (s : State) (hw : swapWidthOk c = true)
    (h : f.dst.toNat ≤ 10) :
    swapTo o c n f s = writeDst s f.dst
      (if o = s.byteOrder then BitVec.ofNat 64 ((s.reg f.dst).toNat % 2 ^ c.toNat)
        else bswap (c.toNat / 8) (BitVec.ofNat 64 ((s.reg f.dst).toNat % 2 ^ c.toNat))) n := by
  simp [swapTo, hw, withReg_valid, h]

theorem loadN_inside (n : Nat) (f : Fields) (s : State) (h : f.src.toNat ≤ 10)
    (hb : inBounds (effectiveAddress (s.reg f.src) f.off) n = true) :
    loadN n f s = writeDst s f.dst (BitVec.ofNat 64 (compose s.byteOrder
      (s.stack.readBytes (effectiveAddress (s.reg f.src) f.off).toNat n))) 1 := by
  simp [loadN, withReg_valid, h, memRead_inside, hb]

theorem loadN_outside (n : Nat) (f : Fields) (s : State) (h : f.src.toNat ≤ 10)
    (hb : inBounds (effectiveAddress (s.reg f.src) f.off) n = false) :
    loadN n f s = raise s .memoryBoundsFault := by
  simp [loadN, withReg_valid, h, memRead_outside, hb]

theorem storeN_inside (n : Nat) (v : Word) (f : Fields) (s : State) (h : f.dst.toNat ≤ 10)
    (hb : inBounds (effectiveAddress (s.reg f.dst) f.off) n = true) :
    storeN n v f s = .next { s with
      stack := s.stack.writeBytes (effectiveAddress (s.reg f.dst) f.off).toNat (split s.byteOrder n v.toNat)
      pc := s.pc + 1 } := by
  simp [storeN, withReg_valid, h, memWrite_inside, hb, State.advance]

theorem storeN_outside (n : Nat) (v : Word) (f : Fields) (s : State) (h : f.dst.toNat ≤ 10)
    (hb : inBounds (effectiveAddress (s.reg f.dst) f.off) n = false) :
    storeN n v f s = raise s .memoryBoundsFault := by
  simp [storeN, withReg_valid, h, memWrite_outside, hb]

theorem storeReg_valid (n : Nat) (f : Fields) (s : State) (h : f.src.toNat ≤ 10) :
    storeReg n f s = storeN n (s.reg f.src) f s := withReg_valid s h _

theorem jump64K_valid (cmp : Word → Word → Bool) (f : Fields) (s : State) (h : f.dst.toNat ≤ 10) :
    jump64K cmp f s = jumpIf (cmp (s.reg f.dst) (immOperand f)) f s := withReg_valid s h _

theorem jump64X_valid (cmp : Word → Word → Bool) (f : Fields) (s : State) (h : f.dst.toNat ≤ 10)
    (h' : f.src.toNat ≤ 10) : jump64X cmp f s = jumpIf (cmp (s.reg f.dst) (s.reg f.src)) f s := by
  simp [jump64X, withReg_valid, h, h']

theorem jump32K_valid (cmp : BitVec 32 → BitVec 32 → Bool) (f : Fields) (s : State) (h : f.dst.toNat ≤ 10) :
    jump32K cmp f s = jumpIf (cmp (low32 (s.reg f.dst)) f.imm) f s := withReg_valid s h _

theorem jump32X_valid (cmp : BitVec 32 → BitVec 32 → Bool) (f : Fields) (s : State) (h : f.dst.toNat ≤ 10)
    (h' : f.src.toNat ≤ 10) :
    jump32X cmp f s = jumpIf (cmp (low32 (s.reg f.dst)) (low32 (s.reg f.src))) f s := by
  simp [jump32X, withReg_valid, h, h']

end Sys2Proof.Machine
end

