-- ==== Sys2Proof/Laws/Step.lean ====
section
/-! SUPPORT. What a step can do, said once: every instruction answers a next state, and `Effect` lists which. -/

namespace Sys2Proof.Machine

/-- Everything an instruction can do to the state. -/
inductive Effect (i : Instr) (s : State) : State → Prop
  /-- It faults. DecodeFault is the decoder's alone. -/
  | fault (k : FaultKind) (hk : k ≠ .decodeFault) (hx : i.format ≠ .exit) : Effect i s (s.takeFault k)
  /-- It writes `x[dst]`. -/
  | write (v : Word) (hw : i.writesDst = true) (hd : i.fields.dst.toNat < 10) :
      Effect i s ((s.setReg i.fields.dst v).advance i.len)
  /-- It stores bytes inside the stack, at the effective address of its dst register. -/
  | store (bs : List Byte) (hf : i.format = .st ∨ i.format = .stx) (hd : i.fields.dst.toNat ≤ 10)
      (hb : inBounds (effectiveAddress (s.reg i.fields.dst) i.fields.off) bs.length = true) :
      Effect i s { s with
        stack := s.stack.writeBytes (effectiveAddress (s.reg i.fields.dst) i.fields.off).toNat bs, pc := s.pc + 1 }
  /-- It moves `pc` only. -/
  | jump (n : Int) (hf : i.format = .ja ∨ i.format = .jccK ∨ i.format = .jccX)
      (hn : n = 1 ∨ n = 1 + i.fields.off.toInt) : Effect i s (s.advance n)
  /-- It runs the helper that HELPERS gives the id. -/
  | call (e : HelperEffect) (hf : i.format = .call) (he : s.helpers.lookup i.fields.imm = some e) :
      Effect i s { s with
        regs := s.helperRegs i.fields.imm e, stack := s.helperStack i.fields.imm e, pc := s.pc + 1,
        draws := s.draws + 1 }
  /-- It ends the run. -/
  | exit (hf : i.format = .exit) : Effect i s { s with status := .exited }

/-- The result is a next state by one of the instruction's effects. -/
def Answers (i : Instr) (s : State) (r : Result) : Prop := ∃ t, r = .next t ∧ Effect i s t

theorem answers_raise (i : Instr) (s : State) (k : FaultKind) (hk : k ≠ .decodeFault) (hx : i.format ≠ .exit) :
    Answers i s (raise s k) := ⟨_, rfl, .fault k hk hx⟩

theorem answers_withReg (i : Instr) (s : State) (j : RegId) (k : Word → Result) (hx : i.format ≠ .exit)
    (h : j.toNat ≤ 10 → Answers i s (k (s.reg j))) : Answers i s (withReg s j k) := by
  by_cases hj : j.toNat ≤ 10
  · rw [withReg_valid s hj]; exact h hj
  · rw [withReg_invalid s (by omega)]; exact answers_raise _ _ _ (by decide) hx

theorem answers_writeDst (i : Instr) (s : State) (v : Word) (n : Int) (hw : i.writesDst = true)
    (hn : n = i.len) (hx : i.format ≠ .exit) : Answers i s (writeDst s i.fields.dst v n) := by
  subst hn
  rcases Nat.lt_trichotomy i.fields.dst.toNat 10 with h | h | h
  · rw [writeDst_low s h]; exact ⟨_, rfl, .write v hw h⟩
  · rw [writeDst_frame s h]; exact answers_raise _ _ _ (by decide) hx
  · rw [writeDst_invalid s h]; exact answers_raise _ _ _ (by decide) hx

theorem answers_load (i : Instr) (n : Nat) (s : State) (hf : i.format = .ldx) : Answers i s (loadN n i.fields s) := by
  have hx : i.format ≠ .exit := by simp [hf]
  refine answers_withReg i s _ _ hx fun _ => ?_
  split
  · exact answers_writeDst i s _ 1 (by simp [Instr.writesDst, hf]) (by simp [Instr.len, Instr.wide, hf]) hx
  · exact answers_raise _ _ _ (by decide) hx

theorem answers_store (i : Instr) (n : Nat) (v : Word) (s : State) (hf : i.format = .st ∨ i.format = .stx) :
    Answers i s (storeN n v i.fields s) := by
  have hx : i.format ≠ .exit := by rcases hf with h | h <;> simp [h]
  by_cases hd : i.fields.dst.toNat ≤ 10
  · by_cases hb : inBounds (effectiveAddress (s.reg i.fields.dst) i.fields.off) n = true
    · rw [storeN_inside n v _ s hd hb]
      exact ⟨_, rfl, .store _ hf hd (by simpa using hb)⟩
    · rw [storeN_outside n v _ s hd (by simpa using hb)]
      exact answers_raise _ _ _ (by decide) hx
  · rw [storeN, withReg_invalid s (by omega)]
    exact answers_raise _ _ _ (by decide) hx

theorem answers_jumpIf (i : Instr) (b : Bool) (s : State)
    (hf : i.format = .ja ∨ i.format = .jccK ∨ i.format = .jccX) : Answers i s (jumpIf b i.fields s) :=
  ⟨_, rfl, .jump _ hf (by cases b <;> simp)⟩

theorem answers_swapTo (i : Instr) (o : ByteOrder) (s : State) (hf : i.format = .swap) :
    Answers i s (swapTo o i.imm64 i.len i.fields s) := by
  have hx : i.format ≠ .exit := by simp [hf]
  unfold swapTo
  split
  · exact answers_withReg i s _ _ hx fun _ =>
      answers_writeDst i s _ _ (by simp [Instr.writesDst, hf]) rfl hx
  · exact answers_raise _ _ _ (by decide) hx

theorem answers_call (i : Instr) (s : State) (hf : i.format = .call) : Answers i s (execCall i.fields s) := by
  unfold execCall
  split
  · exact ⟨_, rfl, .call _ hf ‹_›⟩
  · exact answers_raise _ _ _ (by decide) (by simp [hf])

/-- Every instruction answers a next state, by one of its effects. -/
theorem exec_answers (i : Instr) (s : State) : Answers i s (exec i s) := by
  cases i with
  | add64K f | sub64K f | mul64K f | div64K f | or64K f | and64K f | lsh64K f | rsh64K f | mod64K f | xor64K f
  | arsh64K f | add32K f | sub32K f | mul32K f | div32K f | or32K f | and32K f | lsh32K f | rsh32K f
  | mod32K f | xor32K f | arsh32K f =>
      exact answers_withReg _ _ _ _ (by simp [Instr.format]) fun _ =>
        answers_writeDst _ _ _ _ rfl rfl (by simp [Instr.format])
  | add64X f | sub64X f | mul64X f | div64X f | or64X f | and64X f | lsh64X f | rsh64X f | mod64X f | xor64X f
  | arsh64X f | add32X f | sub32X f | mul32X f | div32X f | or32X f | and32X f | lsh32X f | rsh32X f
  | mod32X f | xor32X f | arsh32X f =>
      exact answers_withReg _ _ _ _ (by simp [Instr.format]) fun _ => answers_withReg _ _ _ _ (by simp [Instr.format]) fun _ =>
        answers_writeDst _ _ _ _ rfl rfl (by simp [Instr.format])
  | mov64K f | mov32K f =>
      exact answers_writeDst _ _ _ _ rfl rfl (by simp [Instr.format])
  | mov64X f | mov32X f =>
      exact answers_withReg _ _ _ _ (by simp [Instr.format]) fun _ =>
        answers_writeDst _ _ _ _ rfl rfl (by simp [Instr.format])
  | neg64 f | neg32 f =>
      exact answers_withReg _ _ _ _ (by simp [Instr.format]) fun _ =>
        answers_writeDst _ _ _ _ rfl rfl (by simp [Instr.format])
  | le f c | be f c =>
      exact answers_swapTo _ _ _ rfl
  | lddw f c =>
      exact answers_writeDst _ _ _ _ rfl rfl (by simp [Instr.format])
  | ldxw f | ldxh f | ldxb f | ldxdw f =>
      exact answers_load _ _ _ rfl
  | stw f | sth f | stb f | stdw f =>
      exact answers_store _ _ _ _ (.inl rfl)
  | stxw f | stxh f | stxb f | stxdw f =>
      exact answers_withReg _ _ _ _ (by simp [Instr.format]) fun _ => answers_store _ _ _ _ (.inr rfl)
  | ldabsw f | ldabsh f | ldabsb f =>
      exact answers_raise _ _ _ (by decide) (by simp [Instr.format])
  | ldindw f | ldindh f | ldindb f =>
      exact answers_raise _ _ _ (by decide) (by simp [Instr.format])
  | xaddw f | xadddw f =>
      exact answers_raise _ _ _ (by decide) (by simp [Instr.format])
  | ja f =>
      exact answers_jumpIf _ true _ (.inl rfl)
  | jeqK f | jgtK f | jgeK f | jsetK f | jneK f | jsgtK f | jsgeK f | jltK f | jleK f | jsltK f | jsleK f
  | jeq32K f | jgt32K f | jge32K f | jset32K f | jne32K f | jsgt32K f | jsge32K f | jlt32K f | jle32K f
  | jslt32K f | jsle32K f =>
      exact answers_withReg _ _ _ _ (by simp [Instr.format]) fun _ => answers_jumpIf _ _ _ (.inr (.inl rfl))
  | jeqX f | jgtX f | jgeX f | jsetX f | jneX f | jsgtX f | jsgeX f | jltX f | jleX f | jsltX f | jsleX f
  | jeq32X f | jgt32X f | jge32X f | jset32X f | jne32X f | jsgt32X f | jsge32X f | jlt32X f | jle32X f
  | jslt32X f | jsle32X f =>
      exact answers_withReg _ _ _ _ (by simp [Instr.format]) fun _ => answers_withReg _ _ _ _ (by simp [Instr.format]) fun _ =>
        answers_jumpIf _ _ _ (.inr (.inr rfl))
  | call f =>
      exact answers_call _ _ rfl
  | exit f =>
      exact ⟨_, rfl, .exit rfl⟩

/-- What follows from `exec i s` answering `t`. -/
theorem effect_of_exec {i : Instr} {s t : State} (h : exec i s = .next t) : Effect i s t := by
  obtain ⟨u, hu, he⟩ := exec_answers i s
  rw [hu] at h
  cases h
  exact he

/-! ## The step -/

theorem step_instr {s : State} {i : Instr} (hs : s.status = .running) (hd : s.fetchDecode = .instr i) :
    step s = exec i s := by simp [step, hs, hd]

theorem step_fault {s : State} {k : FaultKind} (hs : s.status = .running) (hd : s.fetchDecode = .fault k) :
    step s = raise s k := by simp [step, hs, hd]

theorem step_terminal {s : State} (hs : s.status ≠ .running) : step s = .next s := by
  cases h : s.status <;> simp_all [step]

/-- Everything a step can do. -/
theorem step_cases {s t : State} (h : step s = .next t) :
    (s.status ≠ .running ∧ t = s) ∨
      (s.status = .running ∧ ∃ k, s.fetchDecode = .fault k ∧ t = s.takeFault k) ∨
      (s.status = .running ∧ ∃ i, s.fetchDecode = .instr i ∧ Effect i s t) := by
  by_cases hs : s.status = .running
  · cases hd : s.fetchDecode with
    | fault k =>
      rw [step_fault hs hd] at h
      exact .inr (.inl ⟨hs, k, rfl, by simpa [raise] using h.symm⟩)
    | instr i =>
      rw [step_instr hs hd] at h
      exact .inr (.inr ⟨hs, i, rfl, effect_of_exec h⟩)
  · rw [step_terminal hs] at h
    exact .inl ⟨hs, by simpa using h.symm⟩

/-- Every kind of step is a next state. -/
theorem step_next_stepped (s : State) : step s = .next s.stepped := by
  by_cases hs : s.status = .running
  · cases hd : s.fetchDecode with
    | fault k => simp [State.stepped, step_fault hs hd, raise]
    | instr i =>
      obtain ⟨t, ht, -⟩ := exec_answers i s
      simp [State.stepped, step_instr hs hd, ht]
  · simp [State.stepped, step_terminal hs]

end Sys2Proof.Machine
end

