-- ==== Sys2Proof/Laws/TwoRuns.lean ====
section
/-! SUPPORT. Two states that differ in STATUS, FAULT and the draw count only: what an instruction does to the rest is
the same in both. -/

namespace Sys2Proof.Machine

/-- The two states agree in all that an instruction looks at, free draws apart. -/
structure Alike (s s' : State) : Prop where
  regs      : s'.regs = s.regs
  pc        : s'.pc = s.pc
  stack     : s'.stack = s.stack
  byteOrder : s'.byteOrder = s.byteOrder
  prog      : s'.prog = s.prog
  helpers   : s'.helpers = s.helpers

/-- From `s` and `s'` both answer, alike again; equal STATUS and FAULT stay equal, and so do equal draw counts. -/
def AlikeResults (s s' : State) (r r' : Result) : Prop :=
  ∃ t t', r = .next t ∧ r' = .next t' ∧ Alike t t' ∧
    (s'.status = s.status → s'.fault = s.fault → t'.status = t.status ∧ t'.fault = t.fault) ∧
    (s'.draws = s.draws → t'.draws = t.draws)

variable {s s' : State}

theorem Alike.reg? (h : Alike s s') (j : RegId) : s'.reg? j = s.reg? j := by simp only [State.reg?, h.regs]

theorem Alike.reg (h : Alike s s') (j : RegId) : s'.reg j = s.reg j := by simp only [State.reg, h.reg?]

theorem Alike.fetchDecode (h : Alike s s') : s'.fetchDecode = s.fetchDecode := by
  simp only [State.fetchDecode, State.helperIds, State.fetchBytes, h.byteOrder, h.helpers, h.pc, h.prog]

theorem alike_raise (h : Alike s s') (k : FaultKind) : AlikeResults s s' (raise s k) (raise s' k) :=
  ⟨_, _, rfl, rfl, ⟨h.regs, h.pc, h.stack, h.byteOrder, h.prog, h.helpers⟩,
    fun _ _ => ⟨rfl, by simp [State.rawBytes_congr h.pc h.prog h.byteOrder, h.pc]⟩, fun hd => hd⟩

theorem alike_withReg (h : Alike s s') (j : RegId) {k k' : Word → Result}
    (hk : ∀ v, AlikeResults s s' (k v) (k' v)) : AlikeResults s s' (withReg s j k) (withReg s' j k') := by
  simp only [withReg, h.reg?]
  split
  · exact hk _
  · exact alike_raise h _

theorem alike_writeDst (h : Alike s s') (j : RegId) (v : Word) (n : Int) :
    AlikeResults s s' (writeDst s j v n) (writeDst s' j v n) := by
  simp only [writeDst]
  split
  · exact alike_raise h _
  · split
    · exact alike_raise h _
    · exact ⟨_, _, rfl, rfl, ⟨by simp [h.regs], by simp [h.pc], h.stack, h.byteOrder, h.prog, h.helpers⟩,
        fun h1 h2 => ⟨h1, h2⟩, fun hd => hd⟩

theorem alike_loadN (h : Alike s s') (n : Nat) (f : Fields) : AlikeResults s s' (loadN n f s) (loadN n f s') := by
  refine alike_withReg h _ fun b => ?_
  have : s'.memRead (effectiveAddress b f.off) n = s.memRead (effectiveAddress b f.off) n := by
    simp only [State.memRead, h.byteOrder, h.stack]
  simp only [this]
  split
  · exact alike_writeDst h _ _ _
  · exact alike_raise h _

theorem alike_storeN (h : Alike s s') (n : Nat) (v : Word) (f : Fields) :
    AlikeResults s s' (storeN n v f s) (storeN n v f s') := by
  refine alike_withReg h _ fun b => ?_
  simp only [State.memWrite]
  by_cases hb : inBounds (effectiveAddress b f.off) n = true
  · simp only [hb, if_true]
    exact ⟨_, _, rfl, rfl, ⟨h.regs, by simp [h.pc], by simp [h.stack, h.byteOrder], h.byteOrder, h.prog, h.helpers⟩,
      fun h1 h2 => ⟨h1, h2⟩, fun hd => hd⟩
  · simp only [hb]
    exact alike_raise h _

theorem alike_jumpIf (h : Alike s s') (b : Bool) (f : Fields) : AlikeResults s s' (jumpIf b f s) (jumpIf b f s') :=
  ⟨_, _, rfl, rfl, ⟨h.regs, by simp [h.pc], h.stack, h.byteOrder, h.prog, h.helpers⟩, fun h1 h2 => ⟨h1, h2⟩,
    fun hd => hd⟩

theorem alike_swapTo (h : Alike s s') (o : ByteOrder) (v : Word) (n : Int) (f : Fields) :
    AlikeResults s s' (swapTo o v n f s) (swapTo o v n f s') := by
  simp only [swapTo, h.byteOrder]
  split
  · exact alike_withReg h _ fun _ => alike_writeDst h _ _ _
  · exact alike_raise h _

/-- A call is alike where the draws are equal, or where no effect has anything free. -/
theorem alike_call (h : Alike s s') (f : Fields)
    (hc : s'.draws = s.draws ∨ ∀ p ∈ s.helpers, p.2.functional = true) :
    AlikeResults s s' (execCall f s) (execCall f s') := by
  simp only [execCall, h.helpers]
  split
  · rename_i e he
    have ho : s'.helperOutcome f.imm e = s.helperOutcome f.imm e := by
      rcases hc with hd | hf
      · simp only [State.helperOutcome, State.helperCall, h.reg, h.stack, hd]
      · simp only [State.helperOutcome, h.stack, State.helperCall, h.reg]
        exact outcome_functional (hf _ (mem_of_lookup he)) _ _ _ _ _ _
    exact ⟨_, _, rfl, rfl, ⟨by simp [State.helperRegs, ho, h.regs], by simp [h.pc], by simp [State.helperStack, ho],
      h.byteOrder, h.prog, rfl⟩, fun h1 h2 => ⟨h1, h2⟩, fun hd => by simp [hd]⟩
  · exact alike_raise h _

/-- Every instruction answers alike. -/
theorem exec_alike (h : Alike s s') (i : Instr)
    (hc : i.format = .call → s'.draws = s.draws ∨ ∀ p ∈ s.helpers, p.2.functional = true) :
    AlikeResults s s' (exec i s) (exec i s') := by
  cases i with
  | add64K f | sub64K f | mul64K f | div64K f | or64K f | and64K f | lsh64K f | rsh64K f | mod64K f | xor64K f
  | arsh64K f | add32K f | sub32K f | mul32K f | div32K f | or32K f | and32K f | lsh32K f | rsh32K f
  | mod32K f | xor32K f | arsh32K f | mov64X f | mov32X f | neg64 f | neg32 f =>
      exact alike_withReg h _ fun _ => alike_writeDst h _ _ _
  | add64X f | sub64X f | mul64X f | div64X f | or64X f | and64X f | lsh64X f | rsh64X f | mod64X f | xor64X f
  | arsh64X f | add32X f | sub32X f | mul32X f | div32X f | or32X f | and32X f | lsh32X f | rsh32X f
  | mod32X f | xor32X f | arsh32X f =>
      exact alike_withReg h _ fun _ => alike_withReg h _ fun _ => alike_writeDst h _ _ _
  | mov64K f | mov32K f | lddw f c =>
      exact alike_writeDst h _ _ _
  | le f c | be f c =>
      exact alike_swapTo h _ _ _ _
  | ldxw f | ldxh f | ldxb f | ldxdw f =>
      exact alike_loadN h _ _
  | stw f | sth f | stb f | stdw f =>
      exact alike_storeN h _ _ _
  | stxw f | stxh f | stxb f | stxdw f =>
      exact alike_withReg h _ fun _ => alike_storeN h _ _ _
  | ldabsw f | ldabsh f | ldabsb f | ldindw f | ldindh f | ldindb f | xaddw f | xadddw f =>
      exact alike_raise h _
  | ja f =>
      exact alike_jumpIf h true _
  | jeqK f | jgtK f | jgeK f | jsetK f | jneK f | jsgtK f | jsgeK f | jltK f | jleK f | jsltK f | jsleK f
  | jeq32K f | jgt32K f | jge32K f | jset32K f | jne32K f | jsgt32K f | jsge32K f | jlt32K f | jle32K f
  | jslt32K f | jsle32K f =>
      exact alike_withReg h _ fun _ => alike_jumpIf h _ _
  | jeqX f | jgtX f | jgeX f | jsetX f | jneX f | jsgtX f | jsgeX f | jltX f | jleX f | jsltX f | jsleX f
  | jeq32X f | jgt32X f | jge32X f | jset32X f | jne32X f | jsgt32X f | jsge32X f | jlt32X f | jle32X f
  | jslt32X f | jsle32X f =>
      exact alike_withReg h _ fun _ => alike_withReg h _ fun _ => alike_jumpIf h _ _
  | call f =>
      exact alike_call h f (hc rfl)
  | exit f =>
      exact ⟨_, _, rfl, rfl, ⟨h.regs, h.pc, h.stack, h.byteOrder, h.prog, h.helpers⟩, fun _ h2 => ⟨rfl, h2⟩, fun hd => hd⟩

/-- A Running step answers alike. -/
theorem step_alike (h : Alike s s') (hs : s.status = .running) (hs' : s'.status = .running)
    (hc : ∀ p ∈ s.helpers, p.2.functional = true) : AlikeResults s s' (step s) (step s') := by
  cases hd : s.fetchDecode with
  | fault k => rw [step_fault hs hd, step_fault hs' (h.fetchDecode.trans hd)]; exact alike_raise h k
  | instr i =>
    rw [step_instr hs hd, step_instr hs' (h.fetchDecode.trans hd)]
    exact exec_alike h i fun _ => .inr hc

end Sys2Proof.Machine
end

