-- ==== Sys2Proof/Tests/Slice0.lean ====
section
/-! SUPPORT. The model's own tests. Every expected value is the spec's: the "Example" of the rule named, 40_decoder.md
R122, or a table of 95_test_vectors.md. The witnesses at the end show, for every statement with hypotheses, states and
operands that meet them, at the boundaries of their ranges. -/

namespace Sys2Proof.Tests

open Sys2Proof.Machine Sys2Proof.Claims

/-! ## Helpers -/

/-- Bytes, written as numbers. -/
def bs (l : List Nat) : List Byte := l.map (BitVec.ofNat 8)

/-- The eight bytes of a word, written as one number, byte 0 first. -/
def word (v : Nat) : List Nat := [56, 48, 40, 32, 24, 16, 8, 0].map fun k => v / 2 ^ k % 256

/-- Fields, written as numbers. -/
def f (dst src : Nat) (off imm : Int) : Fields :=
  ⟨BitVec.ofNat 4 dst, BitVec.ofNat 4 src, BitVec.ofInt 16 off, BitVec.ofInt 32 imm⟩

/-- The reset state with a byte order, some registers, a stack, and a program that stands at word `pc`. -/
def start (o : ByteOrder) (regs : List (Nat × Nat)) (stack : Memory) (pc : Nat) (prog : List Nat) : State :=
  { State.reset with
    byteOrder := o
    regs := regs.foldl (fun v p => v.setIfInBounds p.1 (BitVec.ofNat 64 p.2)) State.reset.regs
    stack := stack
    pc := pc
    prog := List.replicate (8 * pc) 0#8 ++ bs prog }

/-- The next state of an outcome. -/
def got (r : Result) : State :=
  match r with
  | .next t => t
  | .fault _ => State.reset
  | .refused _ => State.reset

theorem exec_got (i : Instr) (s : State) : exec i s = .next (got (exec i s)) := by
  obtain ⟨t, ht, -⟩ := exec_answers i s
  rw [ht]; rfl

/-- The word is read as this instruction, and encoding the instruction gives the word. -/
def spells (o : ByteOrder) (bytes : List Nat) (i : Instr) : Bool :=
  readInstr o (bs bytes) == .instr i && encode o i == bs bytes

/-- The fault kind of the state after one step. -/
def stepFault (s : State) : Option FaultKind := s.stepped.fault.map (·.kind)

/-! ## Well-formedness -/

theorem test_wf_accepts : (Instr.add64X (f 10 10 (-1) (-1))).wf = true ∧ (Instr.le (f 1 0 0 16) 0#32).wf = true ∧
    (Instr.be (f 1 0 0 64) 0#32).wf = true ∧ (Instr.lddw (f 1 0 0 (-1)) (-1#32)).wf = true := by decide
theorem test_wf_refuses_dst_11 : (Instr.add64K (f 11 0 0 5)).wf = false := by decide
theorem test_wf_refuses_src_11 : (Instr.exit (f 0 11 0 0)).wf = false := by decide
theorem test_wf_refuses_width_17 : (Instr.le (f 1 0 0 17) 0#32).wf = false := by decide
theorem test_wf_refuses_width_0 : (Instr.be (f 1 0 0 0) 0#32).wf = false := by decide
theorem test_wf_refuses_swap_continuation : (Instr.be (f 1 0 0 64) 1#32).wf = false ∧
    (Instr.le (f 1 0 0 16) 1#32).wf = false := by decide

/-! ## The spec's examples -/

/-- A word with LE and with BE, its instruction, x[1], x[2] before, x[1] after. -/
abbrev AluRow := Nat × Nat × Instr × Nat × Nat × Nat

/-- One step on the word, under one byte order. -/
def aluStep (o : ByteOrder) (bytes : List Nat) (x1 x2 want : Nat) : Bool :=
  let t := (start o [(1, x1), (2, x2)] [] 0 bytes).stepped
  (t.reg 1#4).toNat == want && (t.reg 2#4).toNat == x2 && t.pc == 1 && t.status == .running

/-- Both orders, decoding, encoding and one step. -/
def aluOk : AluRow → Bool
  | (le, be, i, x1, x2, want) =>
    spells .le (word le) i && spells .be (word be) i && aluStep .le (word le) x1 x2 want && aluStep .be (word be) x1 x2 want

/-- A word with LE and with BE, its instruction, and outcomes at `pc = 10`: instruction, x[1], x[2], `pc` after. -/
abbrev JumpRow := Nat × Nat × Instr × List (Instr × Nat × Nat × Int)

def jumpOk : JumpRow → Bool
  | (le, be, i, runs) =>
    spells .le (word le) i && spells .be (word be) i && runs.all fun r =>
      let s := start .le [(1, r.2.1), (2, r.2.2.1)] [] 10 []
      got (exec r.1 s) == { s with pc := r.2.2.2 }

/-- The examples of 41_alu64.md, immediate forms and `neg64`. -/
def alu64K : List AluRow :=
  [
  (0x0f01000002000000, 0x0f10000000000002, .add64K (f 1 0 0 2), 0xffffffffffffffff, 0x0, 0x1),
  (0x1f01000001000000, 0x1f10000000000001, .sub64K (f 1 0 0 1), 0x0, 0x0, 0xffffffffffffffff),
  (0x2f010000ffffffff, 0x2f100000ffffffff, .mul64K (f 1 0 0 (-1)), 0x100000000, 0x0, 0xffffffff00000000),
  (0x3f01000002000000, 0x3f10000000000002, .div64K (f 1 0 0 2), 0xfffffffffffffff8, 0x0, 0x7ffffffffffffffc),
  (0x4f01000000ffffff, 0x4f100000ffffff00, .or64K (f 1 0 0 (-256)), 0x1, 0x0, 0xffffffffffffff01),
  (0x5f0100000000ffff, 0x5f100000ffff0000, .and64K (f 1 0 0 (-65536)), 0x123456789abcdef0, 0x0, 0x123456789abc0000),
  (0x6f0100003f000000, 0x6f1000000000003f, .lsh64K (f 1 0 0 63), 0x1, 0x0, 0x8000000000000000),
  (0x7f01000001000000, 0x7f10000000000001, .rsh64K (f 1 0 0 1), 0xfffffffffffffff8, 0x0, 0x7ffffffffffffffc),
  (0x9f01000003000000, 0x9f10000000000003, .mod64K (f 1 0 0 3), 0xa, 0x0, 0x1),
  (0xaf010000ffffffff, 0xaf100000ffffffff, .xor64K (f 1 0 0 (-1)), 0x0, 0x0, 0xffffffffffffffff),
  (0xbf010000ffffffff, 0xbf100000ffffffff, .mov64K (f 1 0 0 (-1)), 0xdeadbeefdeadbeef, 0x0, 0xffffffffffffffff),
  (0xcf01000001000000, 0xcf10000000000001, .arsh64K (f 1 0 0 1), 0xfffffffffffffff8, 0x0, 0xfffffffffffffffc),
  (0x8701000000000000, 0x8710000000000000, .neg64 (f 1 0 0 0), 0x1, 0x0, 0xffffffffffffffff)
  ]

/-- The examples of 41_alu64.md, register forms. -/
def alu64X : List AluRow :=
  [
  (0x0721000000000000, 0x0712000000000000, .add64X (f 1 2 0 0), 0x7fffffffffffffff, 0x1, 0x8000000000000000),
  (0x1721000000000000, 0x1712000000000000, .sub64X (f 1 2 0 0), 0x5, 0x7, 0xfffffffffffffffe),
  (0x2721000000000000, 0x2712000000000000, .mul64X (f 1 2 0 0), 0xffffffffffffffff, 0xffffffffffffffff, 0x1),
  (0x3721000000000000, 0x3712000000000000, .div64X (f 1 2 0 0), 0x64, 0x0, 0x0),
  (0x4721000000000000, 0x4712000000000000, .or64X (f 1 2 0 0), 0xf0, 0xf, 0xff),
  (0x5721000000000000, 0x5712000000000000, .and64X (f 1 2 0 0), 0xff00, 0xff0, 0xf00),
  (0x6721000000000000, 0x6712000000000000, .lsh64X (f 1 2 0 0), 0x1, 0x41, 0x2),
  (0x7721000000000000, 0x7712000000000000, .rsh64X (f 1 2 0 0), 0x8000000000000000, 0x3f, 0x1),
  (0x9721000000000000, 0x9712000000000000, .mod64X (f 1 2 0 0), 0xa, 0x0, 0x0),
  (0xa721000000000000, 0xa712000000000000, .xor64X (f 1 2 0 0), 0xff00, 0xff0, 0xf0f0),
  (0xb721000000000000, 0xb712000000000000, .mov64X (f 1 2 0 0), 0x0, 0x123456789abcdef0, 0x123456789abcdef0),
  (0xc721000000000000, 0xc712000000000000, .arsh64X (f 1 2 0 0), 0x8000000000000000, 0x3f, 0xffffffffffffffff)
  ]

/-- The examples of 42_alu32.md, immediate forms and `neg32`. -/
def alu32K : List AluRow :=
  [
  (0x0c01000001000000, 0x0c10000000000001, .add32K (f 1 0 0 1), 0x1ffffffff, 0x0, 0x0),
  (0x1c01000001000000, 0x1c10000000000001, .sub32K (f 1 0 0 1), 0x0, 0x0, 0xffffffff),
  (0x2c01000002000000, 0x2c10000000000002, .mul32K (f 1 0 0 2), 0x80000000, 0x0, 0x0),
  (0x3c01000002000000, 0x3c10000000000002, .div32K (f 1 0 0 2), 0xfffffffffffffff8, 0x0, 0x7ffffffc),
  (0x4c01000000ffffff, 0x4c100000ffffff00, .or32K (f 1 0 0 (-256)), 0xffffffff00000001, 0x0, 0xffffff01),
  (0x5c0100000000ffff, 0x5c100000ffff0000, .and32K (f 1 0 0 (-65536)), 0x123456789abcdef0, 0x0, 0x9abc0000),
  (0x6c0100001f000000, 0x6c1000000000001f, .lsh32K (f 1 0 0 31), 0xffffffff00000001, 0x0, 0x80000000),
  (0x7c01000001000000, 0x7c10000000000001, .rsh32K (f 1 0 0 1), 0xfffffffffffffff8, 0x0, 0x7ffffffc),
  (0x9c01000003000000, 0x9c10000000000003, .mod32K (f 1 0 0 3), 0x10000000a, 0x0, 0x1),
  (0xac010000ffffffff, 0xac100000ffffffff, .xor32K (f 1 0 0 (-1)), 0x0, 0x0, 0xffffffff),
  (0xbc010000ffffffff, 0xbc100000ffffffff, .mov32K (f 1 0 0 (-1)), 0xdeadbeefdeadbeef, 0x0, 0xffffffff),
  (0xcc01000001000000, 0xcc10000000000001, .arsh32K (f 1 0 0 1), 0xfffffff8, 0x0, 0xfffffffc),
  (0x8401000000000000, 0x8410000000000000, .neg32 (f 1 0 0 0), 0x1, 0x0, 0xffffffff)
  ]

/-- The examples of 42_alu32.md, register forms. -/
def alu32X : List AluRow :=
  [
  (0x0421000000000000, 0x0412000000000000, .add32X (f 1 2 0 0), 0xaaaaaaaa00000005, 0xbbbbbbbb00000003, 0x8),
  (0x1421000000000000, 0x1412000000000000, .sub32X (f 1 2 0 0), 0x100000005, 0x7, 0xfffffffe),
  (0x2421000000000000, 0x2412000000000000, .mul32X (f 1 2 0 0), 0xffffffff, 0xffffffff, 0x1),
  (0x3421000000000000, 0x3412000000000000, .div32X (f 1 2 0 0), 0x7, 0x100000000, 0x0),
  (0x4421000000000000, 0x4412000000000000, .or32X (f 1 2 0 0), 0xf0, 0xffffffff0000000f, 0xff),
  (0x5421000000000000, 0x5412000000000000, .and32X (f 1 2 0 0), 0xffffffffffffffff, 0xffffffffffffffff, 0xffffffff),
  (0x6421000000000000, 0x6412000000000000, .lsh32X (f 1 2 0 0), 0x1, 0x21, 0x2),
  (0x7421000000000000, 0x7412000000000000, .rsh32X (f 1 2 0 0), 0x80000000, 0x20, 0x80000000),
  (0x9421000000000000, 0x9412000000000000, .mod32X (f 1 2 0 0), 0xa, 0x700000000, 0x0),
  (0xa421000000000000, 0xa412000000000000, .xor32X (f 1 2 0 0), 0x12345678ffffffff, 0xffffffff, 0x0),
  (0xb421000000000000, 0xb412000000000000, .mov32X (f 1 2 0 0), 0x0, 0x123456789abcdef0, 0x9abcdef0),
  (0xc421000000000000, 0xc412000000000000, .arsh32X (f 1 2 0 0), 0xffffffff80000000, 0x1f, 0xffffffff)
  ]

/-- The examples of 44_jump.md, class JMP, immediate forms: the word in both orders, and up to two outcomes at `pc = 10`. -/
def jump64K : List JumpRow :=
  [
  (0x1d01030001000000, 0x1d10000300000001, .jeqK (f 1 0 3 1), [(.jeqK (f 1 0 3 5), 0x5, 0, 14), (.jeqK (f 1 0 3 1), 0xffffffffffffffff, 0, 11)]),
  (0x2d01030001000000, 0x2d10000300000001, .jgtK (f 1 0 3 1), [(.jgtK (f 1 0 3 1), 0xffffffffffffffff, 0, 14), (.jgtK (f 1 0 3 5), 0x5, 0, 11)]),
  (0x3d01030001000000, 0x3d10000300000001, .jgeK (f 1 0 3 1), [(.jgeK (f 1 0 3 1), 0xffffffffffffffff, 0, 14), (.jgeK (f 1 0 3 (-1)), 0xfffffffffffffffe, 0, 11)]),
  (0x4d01030001000000, 0x4d10000300000001, .jsetK (f 1 0 3 1), [(.jsetK (f 1 0 3 1), 0xffffffffffffffff, 0, 14), (.jsetK (f 1 0 3 9), 0x6, 0, 11)]),
  (0x5d01030001000000, 0x5d10000300000001, .jneK (f 1 0 3 1), [(.jneK (f 1 0 3 1), 0xffffffffffffffff, 0, 14), (.jneK (f 1 0 3 5), 0x5, 0, 11)]),
  (0x6d01030001000000, 0x6d10000300000001, .jsgtK (f 1 0 3 1), [(.jsgtK (f 1 0 3 1), 0xffffffffffffffff, 0, 11)]),
  (0x7d01030001000000, 0x7d10000300000001, .jsgeK (f 1 0 3 1), [(.jsgeK (f 1 0 3 5), 0x5, 0, 14), (.jsgeK (f 1 0 3 1), 0xffffffffffffffff, 0, 11)]),
  (0xad01030001000000, 0xad10000300000001, .jltK (f 1 0 3 1), [(.jltK (f 1 0 3 (-1)), 0xfffffffffffffffe, 0, 14), (.jltK (f 1 0 3 1), 0xffffffffffffffff, 0, 11)]),
  (0xbd01030001000000, 0xbd10000300000001, .jleK (f 1 0 3 1), [(.jleK (f 1 0 3 5), 0x5, 0, 14), (.jleK (f 1 0 3 1), 0xffffffffffffffff, 0, 11)]),
  (0xcd01030001000000, 0xcd10000300000001, .jsltK (f 1 0 3 1), [(.jsltK (f 1 0 3 1), 0xffffffffffffffff, 0, 14), (.jsltK (f 1 0 3 5), 0x5, 0, 11)]),
  (0xdd01030001000000, 0xdd10000300000001, .jsleK (f 1 0 3 1), [(.jsleK (f 1 0 3 1), 0xffffffffffffffff, 0, 14)])
  ]

/-- The examples of 44_jump.md, class JMP, register forms. -/
def jump64X : List JumpRow :=
  [
  (0x1521030000000000, 0x1512000300000000, .jeqX (f 1 2 3 0), [(.jeqX (f 1 2 3 0), 0x5, 0x5, 14), (.jeqX (f 1 2 3 0), 0xffffffffffffffff, 0x1, 11)]),
  (0x2521030000000000, 0x2512000300000000, .jgtX (f 1 2 3 0), [(.jgtX (f 1 2 3 0), 0xffffffffffffffff, 0x1, 14), (.jgtX (f 1 2 3 0), 0x5, 0x5, 11)]),
  (0x3521030000000000, 0x3512000300000000, .jgeX (f 1 2 3 0), [(.jgeX (f 1 2 3 0), 0xffffffffffffffff, 0x1, 14), (.jgeX (f 1 2 3 0), 0x6, 0x9, 11)]),
  (0x4521030000000000, 0x4512000300000000, .jsetX (f 1 2 3 0), [(.jsetX (f 1 2 3 0), 0xffffffffffffffff, 0x1, 14), (.jsetX (f 1 2 3 0), 0x8000000000000000, 0x7fffffffffffffff, 11)]),
  (0x5521030000000000, 0x5512000300000000, .jneX (f 1 2 3 0), [(.jneX (f 1 2 3 0), 0xffffffffffffffff, 0x1, 14), (.jneX (f 1 2 3 0), 0x5, 0x5, 11)]),
  (0x6521030000000000, 0x6512000300000000, .jsgtX (f 1 2 3 0), [(.jsgtX (f 1 2 3 0), 0xffffffffffffffff, 0x1, 11)]),
  (0x7521030000000000, 0x7512000300000000, .jsgeX (f 1 2 3 0), [(.jsgeX (f 1 2 3 0), 0x5, 0x5, 14), (.jsgeX (f 1 2 3 0), 0xffffffffffffffff, 0x1, 11)]),
  (0xa521030000000000, 0xa512000300000000, .jltX (f 1 2 3 0), [(.jltX (f 1 2 3 0), 0x6, 0x9, 14), (.jltX (f 1 2 3 0), 0xffffffffffffffff, 0x1, 11)]),
  (0xb521030000000000, 0xb512000300000000, .jleX (f 1 2 3 0), [(.jleX (f 1 2 3 0), 0x5, 0x5, 14), (.jleX (f 1 2 3 0), 0xffffffffffffffff, 0x1, 11)]),
  (0xc521030000000000, 0xc512000300000000, .jsltX (f 1 2 3 0), [(.jsltX (f 1 2 3 0), 0xffffffffffffffff, 0x1, 14), (.jsltX (f 1 2 3 0), 0x5, 0x5, 11)]),
  (0xd521030000000000, 0xd512000300000000, .jsleX (f 1 2 3 0), [(.jsleX (f 1 2 3 0), 0xffffffffffffffff, 0x1, 14)])
  ]

/-- The examples of 44_jump.md, class JMP32, immediate forms. -/
def jump32K : List JumpRow :=
  [
  (0x1e01030001000000, 0x1e10000300000001, .jeq32K (f 1 0 3 1), [(.jeq32K (f 1 0 3 5), 0xaaaaaaaa00000005, 0, 14), (.jeq32K (f 1 0 3 1), 0xffffffff, 0, 11)]),
  (0x2e01030001000000, 0x2e10000300000001, .jgt32K (f 1 0 3 1), [(.jgt32K (f 1 0 3 1), 0xffffffff, 0, 14), (.jgt32K (f 1 0 3 5), 0xaaaaaaaa00000005, 0, 11)]),
  (0x3e01030001000000, 0x3e10000300000001, .jge32K (f 1 0 3 1), [(.jge32K (f 1 0 3 1), 0xffffffff, 0, 14), (.jge32K (f 1 0 3 (-1)), 0xfffffffffffffffe, 0, 11)]),
  (0x4e01030001000000, 0x4e10000300000001, .jset32K (f 1 0 3 1), [(.jset32K (f 1 0 3 1), 0xffffffff, 0, 14), (.jset32K (f 1 0 3 9), 0x100000006, 0, 11)]),
  (0x5e01030001000000, 0x5e10000300000001, .jne32K (f 1 0 3 1), [(.jne32K (f 1 0 3 1), 0xffffffff, 0, 14), (.jne32K (f 1 0 3 5), 0xaaaaaaaa00000005, 0, 11)]),
  (0x6e01030001000000, 0x6e10000300000001, .jsgt32K (f 1 0 3 1), [(.jsgt32K (f 1 0 3 1), 0xffffffff, 0, 11)]),
  (0x7e01030001000000, 0x7e10000300000001, .jsge32K (f 1 0 3 1), [(.jsge32K (f 1 0 3 5), 0xaaaaaaaa00000005, 0, 14), (.jsge32K (f 1 0 3 1), 0xffffffff, 0, 11)]),
  (0xae01030001000000, 0xae10000300000001, .jlt32K (f 1 0 3 1), [(.jlt32K (f 1 0 3 (-1)), 0xfffffffffffffffe, 0, 14), (.jlt32K (f 1 0 3 1), 0xffffffff, 0, 11)]),
  (0xbe01030001000000, 0xbe10000300000001, .jle32K (f 1 0 3 1), [(.jle32K (f 1 0 3 5), 0xaaaaaaaa00000005, 0, 14), (.jle32K (f 1 0 3 1), 0xffffffff, 0, 11)]),
  (0xce01030001000000, 0xce10000300000001, .jslt32K (f 1 0 3 1), [(.jslt32K (f 1 0 3 1), 0xffffffff, 0, 14), (.jslt32K (f 1 0 3 5), 0xaaaaaaaa00000005, 0, 11)]),
  (0xde01030001000000, 0xde10000300000001, .jsle32K (f 1 0 3 1), [(.jsle32K (f 1 0 3 1), 0xffffffff, 0, 14)])
  ]

/-- The examples of 44_jump.md, class JMP32, register forms. -/
def jump32X : List JumpRow :=
  [
  (0x1621030000000000, 0x1612000300000000, .jeq32X (f 1 2 3 0), [(.jeq32X (f 1 2 3 0), 0xaaaaaaaa00000005, 0xbbbbbbbb00000005, 14), (.jeq32X (f 1 2 3 0), 0xffffffff, 0xffffffff00000001, 11)]),
  (0x2621030000000000, 0x2612000300000000, .jgt32X (f 1 2 3 0), [(.jgt32X (f 1 2 3 0), 0xffffffff, 0xffffffff00000001, 14), (.jgt32X (f 1 2 3 0), 0xaaaaaaaa00000005, 0xbbbbbbbb00000005, 11)]),
  (0x3621030000000000, 0x3612000300000000, .jge32X (f 1 2 3 0), [(.jge32X (f 1 2 3 0), 0xffffffff, 0xffffffff00000001, 14), (.jge32X (f 1 2 3 0), 0x100000006, 0x200000009, 11)]),
  (0x4621030000000000, 0x4612000300000000, .jset32X (f 1 2 3 0), [(.jset32X (f 1 2 3 0), 0xffffffff, 0xffffffff00000001, 14), (.jset32X (f 1 2 3 0), 0x80000000, 0x7fffffff, 11)]),
  (0x5621030000000000, 0x5612000300000000, .jne32X (f 1 2 3 0), [(.jne32X (f 1 2 3 0), 0xffffffff, 0xffffffff00000001, 14), (.jne32X (f 1 2 3 0), 0xaaaaaaaa00000005, 0xbbbbbbbb00000005, 11)]),
  (0x6621030000000000, 0x6612000300000000, .jsgt32X (f 1 2 3 0), [(.jsgt32X (f 1 2 3 0), 0xffffffff, 0xffffffff00000001, 11)]),
  (0x7621030000000000, 0x7612000300000000, .jsge32X (f 1 2 3 0), [(.jsge32X (f 1 2 3 0), 0xaaaaaaaa00000005, 0xbbbbbbbb00000005, 14), (.jsge32X (f 1 2 3 0), 0xffffffff, 0xffffffff00000001, 11)]),
  (0xa621030000000000, 0xa612000300000000, .jlt32X (f 1 2 3 0), [(.jlt32X (f 1 2 3 0), 0x100000006, 0x200000009, 14), (.jlt32X (f 1 2 3 0), 0xffffffff, 0xffffffff00000001, 11)]),
  (0xb621030000000000, 0xb612000300000000, .jle32X (f 1 2 3 0), [(.jle32X (f 1 2 3 0), 0xaaaaaaaa00000005, 0xbbbbbbbb00000005, 14), (.jle32X (f 1 2 3 0), 0xffffffff, 0xffffffff00000001, 11)]),
  (0xc621030000000000, 0xc612000300000000, .jslt32X (f 1 2 3 0), [(.jslt32X (f 1 2 3 0), 0xffffffff, 0xffffffff00000001, 14), (.jslt32X (f 1 2 3 0), 0xaaaaaaaa00000005, 0xbbbbbbbb00000005, 11)]),
  (0xd621030000000000, 0xd612000300000000, .jsle32X (f 1 2 3 0), [(.jsle32X (f 1 2 3 0), 0xffffffff, 0xffffffff00000001, 14)])
  ]

/-- The examples of 43_load_store.md R212 to R215: the word in both orders, and the value loaded in each. -/
def loadRows : List (Nat × Nat × Instr × Nat × Nat) := [
  (0x61a2f8ff00000000, 0x612afff800000000, .ldxw (f 2 10 (-8) 0), 0x44332211, 0x11223344),
  (0x69a2f8ff00000000, 0x692afff800000000, .ldxh (f 2 10 (-8) 0), 0x2211, 0x1122),
  (0x71a2f8ff00000000, 0x712afff800000000, .ldxb (f 2 10 (-8) 0), 0x11, 0x11),
  (0x79a2f8ff00000000, 0x792afff800000000, .ldxdw (f 2 10 (-8) 0), 0x8877665544332211, 0x1122334455667788)
  ]

/-- The examples of 43_load_store.md R216 to R223: the word in both orders, and the bytes stored at 504 in each. -/
def storeRows : List (Nat × Nat × Instr × List Nat × List Nat) := [
  (0x620af8fffeffffff, 0x62a0fff8fffffffe, .stw (f 10 0 (-8) (-2)),
    [0xfe, 0xff, 0xff, 0xff], [0xff, 0xff, 0xff, 0xfe]),
  (0x6a0af8fffeffffff, 0x6aa0fff8fffffffe, .sth (f 10 0 (-8) (-2)),
    [0xfe, 0xff], [0xff, 0xfe]),
  (0x720af8fffeffffff, 0x72a0fff8fffffffe, .stb (f 10 0 (-8) (-2)),
    [0xfe], [0xfe]),
  (0x7a0af8fffeffffff, 0x7aa0fff8fffffffe, .stdw (f 10 0 (-8) (-2)),
    [0xfe, 0xff, 0xff, 0xff, 0xff, 0xff, 0xff, 0xff], [0xff, 0xff, 0xff, 0xff, 0xff, 0xff, 0xff, 0xfe]),
  (0x631af8ff00000000, 0x63a1fff800000000, .stxw (f 10 1 (-8) 0),
    [0x88, 0x77, 0x66, 0x55], [0x55, 0x66, 0x77, 0x88]),
  (0x6b1af8ff00000000, 0x6ba1fff800000000, .stxh (f 10 1 (-8) 0),
    [0x88, 0x77], [0x77, 0x88]),
  (0x731af8ff00000000, 0x73a1fff800000000, .stxb (f 10 1 (-8) 0),
    [0x88], [0x88]),
  (0x7b1af8ff00000000, 0x7ba1fff800000000, .stxdw (f 10 1 (-8) 0),
    [0x88, 0x77, 0x66, 0x55, 0x44, 0x33, 0x22, 0x11], [0x11, 0x22, 0x33, 0x44, 0x55, 0x66, 0x77, 0x88])
  ]

theorem test_alu64_immediate : alu64K.all aluOk = true := by decide
theorem test_alu64_register : alu64X.all aluOk = true := by decide
theorem test_alu32_immediate : alu32K.all aluOk = true := by decide
theorem test_alu32_register : alu32X.all aluOk = true := by decide
theorem test_jump64_immediate : jump64K.all jumpOk = true := by decide
theorem test_jump64_register : jump64X.all jumpOk = true := by decide
theorem test_jump32_immediate : jump32K.all jumpOk = true := by decide
theorem test_jump32_register : jump32X.all jumpOk = true := by decide

/-- `STACK[504..511] = 11 22 33 44 55 66 77 88` (43_load_store.md R212). -/
def topBytes : Memory :=
  [(504, 0x11#8), (505, 0x22#8), (506, 0x33#8), (507, 0x44#8), (508, 0x55#8), (509, 0x66#8), (510, 0x77#8), (511, 0x88#8)]

theorem test_loads : (loadRows.all fun r =>
    spells .le (word r.1) r.2.2.1 && spells .be (word r.2.1) r.2.2.1 &&
    (((start .le [] topBytes 0 (word r.1)).stepped.reg 2#4).toNat == r.2.2.2.1) &&
    (((start .be [] topBytes 0 (word r.2.1)).stepped.reg 2#4).toNat == r.2.2.2.2)) = true := by decide

theorem test_stores : (storeRows.all fun r =>
    spells .le (word r.1) r.2.2.1 && spells .be (word r.2.1) r.2.2.1 &&
    ((start .le [(1, 0x1122334455667788)] [] 0 (word r.1)).stepped.stack ==
      (List.range' 504 r.2.2.2.1.length).zip (bs r.2.2.2.1)) &&
    ((start .be [(1, 0x1122334455667788)] [] 0 (word r.2.1)).stepped.stack ==
      (List.range' 504 r.2.2.2.2.length).zip (bs r.2.2.2.2))) = true := by decide

/-- 43_load_store.md R211. -/
theorem test_lddw : spells .le [0x18, 3, 0, 0, 0x88, 0x77, 0x66, 0x55, 0, 0, 0, 0, 0x44, 0x33, 0x22, 0x11]
      (.lddw (f 3 0 0 0x55667788) 0x11223344#32) = true ∧
    spells .be [0x18, 0x30, 0, 0, 0x55, 0x66, 0x77, 0x88, 0, 0, 0, 0, 0x11, 0x22, 0x33, 0x44]
      (.lddw (f 3 0 0 0x55667788) 0x11223344#32) = true ∧
    ((start .be [] [] 0 [0x18, 0x30, 0, 0, 0x55, 0x66, 0x77, 0x88, 0, 0, 0, 0, 0x11, 0x22, 0x33, 0x44]).stepped.reg 3#4,
      (start .be [] [] 0 [0x18, 0x30, 0, 0, 0x55, 0x66, 0x77, 0x88, 0, 0, 0, 0, 0x11, 0x22, 0x33, 0x44]).stepped.pc) =
      (0x1122334455667788#64, 2) := by decide

/-- What a byte swap of 0x1122334455667788 leaves. -/
def swapped (o : ByteOrder) (i : Instr) : Word :=
  (got (exec i (start o [(1, 0x1122334455667788)] [] 0 []))).reg 1#4

/-- 42_alu32.md R197. -/
theorem test_le : spells .le [0xd4, 1, 0, 0, 0x10, 0, 0, 0] (.le (f 1 0 0 16) 0#32) = true ∧
    spells .be [0xd4, 0x10, 0, 0, 0, 0, 0, 0x40, 0, 0, 0, 0, 0, 0, 0, 0] (.le (f 1 0 0 64) 0#32) = true ∧
    swapped .le (.le (f 1 0 0 16) 0#32) = 0x7788#64 ∧ swapped .le (.le (f 1 0 0 32) 0#32) = 0x55667788#64 ∧
    swapped .le (.le (f 1 0 0 64) 0#32) = 0x1122334455667788#64 ∧ swapped .be (.le (f 1 0 0 16) 0#32) = 0x8877#64 ∧
    swapped .be (.le (f 1 0 0 32) 0#32) = 0x88776655#64 ∧
    swapped .be (.le (f 1 0 0 64) 0#32) = 0x8877665544332211#64 := by decide

/-- 42_alu32.md R198. -/
theorem test_be : spells .le [0xdc, 1, 0, 0, 0x10, 0, 0, 0] (.be (f 1 0 0 16) 0#32) = true ∧
    spells .be [0xdc, 0x10, 0, 0, 0, 0, 0, 0x40, 0, 0, 0, 0, 0, 0, 0, 0] (.be (f 1 0 0 64) 0#32) = true ∧
    swapped .le (.be (f 1 0 0 16) 0#32) = 0x8877#64 ∧ swapped .le (.be (f 1 0 0 32) 0#32) = 0x88776655#64 ∧
    swapped .le (.be (f 1 0 0 64) 0#32) = 0x8877665544332211#64 ∧ swapped .be (.be (f 1 0 0 16) 0#32) = 0x7788#64 ∧
    swapped .be (.be (f 1 0 0 32) 0#32) = 0x55667788#64 ∧
    swapped .be (.be (f 1 0 0 64) 0#32) = 0x1122334455667788#64 := by decide

/-- 42_alu32.md R197: a width of 24 or 33 (continuation consumed first) faults. -/
theorem test_swap_bad_width : stepFault (start .le [] [] 0 [0xd4, 1, 0, 0, 24, 0, 0, 0]) = some .unsupportedOpcode ∧
    stepFault (start .le [] [] 0 [0xd4, 1, 0, 0, 33, 0, 0, 0]) = some .decodeFault ∧
    stepFault (start .le [] [] 0 [0xd4, 1, 0, 0, 33, 0, 0, 0, 0, 0, 0, 0, 0, 0, 0, 0]) = some .unsupportedOpcode := by decide

/-- 43_load_store.md R224 to R231: each word is read by name, and its step records it. -/
theorem test_unsupported : ([([0x20, 0, 0, 0, 14, 0, 0, 0], Instr.ldabsw (f 0 0 0 14)),
      ([0x28, 0, 0, 0, 14, 0, 0, 0], .ldabsh (f 0 0 0 14)), ([0x30, 0, 0, 0, 14, 0, 0, 0], .ldabsb (f 0 0 0 14)),
      ([0x40, 0, 0, 0, 14, 0, 0, 0], .ldindw (f 0 0 0 14)), ([0x48, 0, 0, 0, 14, 0, 0, 0], .ldindh (f 0 0 0 14)),
      ([0x50, 0, 0, 0, 14, 0, 0, 0], .ldindb (f 0 0 0 14)),
      ([0xc3, 0x1a, 0xf8, 0xff, 0, 0, 0, 0], .xaddw (f 10 1 (-8) 0)),
      ([0xdb, 0x1a, 0xf8, 0xff, 0, 0, 0, 0], .xadddw (f 10 1 (-8) 0))].all fun (r : List Nat × Instr) =>
    spells .le r.1 r.2 &&
      (start .le [] [] 0 r.1).stepped.fault == some ⟨.unsupportedOpcode, 0, bs r.1⟩) = true := by decide

/-- 44_jump.md R253, 70_reset_and_hazards.md R392. -/
theorem test_ja : spells .le [5, 0, 3, 0, 0, 0, 0, 0] (.ja (f 0 0 3 0)) = true ∧
    spells .be [5, 0, 0, 3, 0, 0, 0, 0] (.ja (f 0 0 3 0)) = true ∧
    (start .le [] [] 10 [5, 0, 3, 0, 0, 0, 0, 0]).stepped.pc = 14 ∧
    (start .le [] [] 10 [5, 0, 0xf4, 0xff, 0, 0, 0, 0]).stepped.pc = -1 ∧
    (start .le [] [] 10 [5, 0, 0xf4, 0xff, 0, 0, 0, 0]).stepped.stepped.fault = some ⟨.decodeFault, -1, []⟩ := by decide

/-- The four LE bytes of a signed immediate. -/
def bytesOf (imm : Int) : List Nat := [0, 8, 16, 24].map fun k => (BitVec.ofInt 32 imm).toNat / 2 ^ k % 256

/-- A state that runs `call id`, with the helper of 95_test_vectors.md T7.1 under 7. -/
def callState (id : Int) : State :=
  { start .le [(0, 99), (1, 3), (2, 4), (6, 9)] [(511, 1#8)] 0 ([0x85, 0, 0, 0] ++ bytesOf id) with
    helpers := [(7#32, sumEffect)] }

/-- A state that runs `exit`. -/
def exitState : State := start .be [(0, 42)] [] 2 [0x95, 0, 0, 0, 0, 0, 0, 0]

/-- 95_test_vectors.md T7.1 to T7.3: `call 7` adds, keeps x[6] to x[10] and the stack; `call 8` and `call -1` fault. -/
theorem test_call : spells .le [0x85, 0, 0, 0, 7, 0, 0, 0] (.call (f 0 0 0 7)) = true ∧
    spells .be [0x85, 0, 0, 0, 0, 0, 0, 7] (.call (f 0 0 0 7)) = true ∧
    ((callState 7).stepped.reg 0#4, (callState 7).stepped.reg 6#4, (callState 7).stepped.reg 10#4) =
      (7#64, 9#64, 512#64) ∧ (callState 7).stepped.stack = [(511, 1#8)] ∧
    ((callState 7).stepped.pc, (callState 7).stepped.status) = (1, .running) ∧
    stepFault (callState 8) = some .unsupportedOpcode ∧ stepFault (callState (-1)) = some .unsupportedOpcode := by decide

/-- 44_jump.md R276, 20_memory.md R68: a helper that writes two bytes and reads the stack as it was. -/
theorem test_helper_stores :
    (HelperEffect.outcome ⟨#v[.byte (.const 5#64), .const 0#64, .const 0#64, .const 0#64, .const 0#64, .const 0#64], true,
        [(.const 5#64, .arg .a1), (.arg .a2, .byte (.const 5#64)), (.const 512#64, .const 1#64)]⟩
      ⟨0x1ff#64, 8#64, 0#64, 0#64, 0#64⟩ [(5, 9#8)] (fun _ => 0#64) (fun _ => 0#8)) =
      ⟨#v[9#64, 0#64, 0#64, 0#64, 0#64, 0#64], [(5, 0xff#8), (8, 9#8)]⟩ := by decide

/-- 44_jump.md R277. -/
theorem test_exit : spells .le [0x95, 0, 0, 0, 0, 0, 0, 0] (.exit (f 0 0 0 0)) = true ∧
    exitState.stepped = { exitState with status := .exited } := by decide

/-- 40_decoder.md R119 and R122 (5), (8), (9), (10): which fault comes first. -/
theorem test_decoder_faults :
    stepFault (start .le [] [] 0 [0xff, 0x0f, 0, 0, 0, 0, 0, 0]) = some .unsupportedOpcode ∧
    stepFault (start .le [] [] 0 [0x18, 0x0c, 0, 0, 0, 0, 0, 0, 0, 0, 0, 0, 0, 0, 0, 0]) = some .invalidRegister ∧
    stepFault (start .le [] [] 0 [0x18, 0x0c, 0, 0, 0, 0, 0, 0, 0, 0, 1, 0, 0, 0, 0, 0]) = some .decodeFault ∧
    stepFault (start .le [] [] 0 [0xdc, 1, 0, 0, 40, 0, 0, 0, 0, 1, 0, 0, 0, 0, 0, 0]) = some .decodeFault ∧
    stepFault (start .le [] [] 0 [0xdc, 1, 0, 0, 40, 0, 0, 0, 0, 0, 0, 0, 0, 0, 0, 0]) = some .unsupportedOpcode ∧
    (start .le [] [] 2 [1, 2, 3, 4]).stepped.fault = some ⟨.decodeFault, 2, bs [1, 2, 3, 4]⟩ := by decide

/-- 20_memory.md R55: the bounds of an access, and the fault before the frame register's (60_exceptions.md R346). -/
theorem test_bounds : inBounds 511 1 = true ∧ inBounds 510 2 = true ∧ inBounds 511 2 = false ∧ inBounds 504 8 = true ∧
    inBounds 505 8 = false ∧ inBounds 512 1 = false ∧ inBounds 0 8 = true ∧ inBounds (-1) 1 = false ∧
    stepFault (start .le [] [] 0 [0x61, 0xaa, 0, 0, 0, 0, 0, 0]) = some .memoryBoundsFault ∧
    stepFault (start .le [] [] 0 [0x61, 0xaa, 0xfc, 0xff, 0, 0, 0, 0]) = some .frameRegisterWriteViolation := by decide

/-- 20_memory.md R67: EA does not wrap. -/
theorem test_effective_address_does_not_wrap : effectiveAddress (-1#64) 1#16 = 2 ^ 64 ∧
    effectiveAddress 0#64 (-1#16) = -1 := by decide

/-- 60_exceptions.md R340: the codes. -/
theorem test_fault_codes : State.reset.faultCode = 0 ∧ State.reset.stepped.faultCode = 1 ∧
    (start .le [] [] 0 [0x63, 0x0a, 0, 0, 0, 0, 0, 0]).stepped.faultCode = 4 := by decide

/-- A table word is read, placed and run at once. -/
theorem test_table_word : decodeTableWord 64 0x000000020000010f = some (.add64K (f 1 0 0 2)) ∧
    ((State.reset.withFetchWord 64 0x000000020000010f).stepped.reg 1#4).toNat = 2 := by decide

/-- The canonical form: writing what an unlisted byte reads as removes the entry. -/
theorem test_canonical_stack : Memory.write [(3, 1#8), (5, 2#8)] 4 7#8 = [(3, 1#8), (4, 7#8), (5, 2#8)] ∧
    Memory.write [(3, 1#8), (5, 2#8)] 3 0#8 = [(5, 2#8)] ∧ Memory.wf [(3, 1#8), (3, 2#8)] = false ∧
    Memory.wf [(512, 1#8)] = false := by decide

/-! ## Witnesses: the hypotheses of the statements are met

Operands are taken at the boundaries: register ids 9, 10 and 11; accesses that end at 512 and at 513; both byte
orders where a statement speaks of them. -/

/-- A Running state at word 0 of a program. -/
def at0 (prog : List Nat) : State := start .le [] [] 0 prog

/-- `mov64 r1, 5` at word 0. -/
def sMov : State := at0 [0xbf, 1, 0, 0, 5, 0, 0, 0]
/-- A word that faults in the decoder. -/
def sZero : State := at0 [0, 0, 0, 0, 0, 0, 0, 0]
/-- A state whose run has faulted. -/
def sFaulted : State := sZero.stepped
/-- `lddw r1, 7` with a good, a missing and a malformed continuation word. -/
def sWide : State := at0 [0x18, 1, 0, 0, 7, 0, 0, 0, 0, 0, 0, 0, 0, 0, 0, 0]
def sWideShort : State := at0 [0x18, 1, 0, 0, 7, 0, 0, 0, 0, 0, 0, 0, 0, 0, 0]
def sWideBad : State := at0 [0x18, 1, 0, 0, 7, 0, 0, 0, 0, 0, 0, 1, 0, 0, 0, 0]
/-- A state for executing an instruction on: x[1] = 504, x[2] = 505, a stack with one byte. -/
def s0 : State := start .le [(1, 504), (2, 505), (3, 0x1122334455667788)] [(511, 9#8)] 0 []

theorem witness_OpcodeMapHas120Names : named 0x0f#8 (f 1 0 0 2) 0#32 = some (.add64K (f 1 0 0 2)) ∧
    (0x0f ∈ namedOpcodes ∧ 0xdb ∈ unsupportedOpcodes ∧ 0x00 ∉ namedOpcodes) := by decide
theorem witness_DecodedFieldsComeFromTheFirstWord :
    decode .le [] (bs [0x6b, 0x1a, 0xfc, 0xff, 0, 0, 0, 0]) = .instr (.stxh (f 10 1 (-4) 0)) ∧
    decode .be [] (bs [0x6b, 0xa1, 0xff, 0xfc, 0, 0, 0, 0]) = .instr (.stxh (f 10 1 (-4) 0)) := by decide
theorem witness_ContinuationWordRules :
    (sWideShort.status = .running ∧ ¬FirstWordMissing sWideShort ∧ WideAt sWideShort ∧ ContinuationMissing sWideShort) ∧
    (sWideBad.status = .running ∧ ¬FirstWordMissing sWideBad ∧ WideAt sWideBad ∧ ¬ContinuationMissing sWideBad ∧
      ContinuationMalformed sWideBad) ∧
    (sWide.status = .running ∧ ¬FirstWordMissing sWide ∧ WideAt sWide ∧ ¬ContinuationMissing sWide ∧
      ¬ContinuationMalformed sWide) := by decide
theorem witness_RecordImmediateAndLength :
    (sWide.fetchDecode = .instr (.lddw (f 1 0 0 7) 0#32) ∧ WideAt sWide) ∧
    (sMov.fetchDecode = .instr (.mov64K (f 1 0 0 5)) ∧ ¬WideAt sMov) := by decide
theorem witness_DecodeFaultInExactlyThreeCases : FirstWordMissing (at0 [0xbf, 1, 0, 0, 5, 0, 0]) ∧
    FirstWordMissing { sMov with pc := -1 } ∧ ¬FirstWordMissing sMov ∧ WideAt sWideShort ∧ ContinuationMissing sWideShort ∧
    WideAt sWideBad ∧ ContinuationMalformed sWideBad ∧ sWideBad.fetchDecode = .fault .decodeFault ∧
    sMov.status = .running := by decide
/-- `s` passes the three fetch checks. -/
def fetchChecksPass (s : State) : Bool :=
  decide ¬(FirstWordMissing s ∨ (WideAt s ∧ ContinuationMissing s) ∨ (WideAt s ∧ ContinuationMalformed s))
/-! One state for each of the four causes of no operation, one for each nibble at 11, one for both nibbles at 10. -/
theorem witness_DecoderChecksInOrder_noOperation :
    [sZero, at0 [0xd4, 1, 0, 0, 17, 0, 0, 0], at0 [0x85, 0, 0, 0, 7, 0, 0, 0],
      at0 [0xdc, 1, 0, 0, 64, 0, 0, 0, 0, 0, 0, 0, 1, 0, 0, 0]].all
      (fun s => fetchChecksPass s && decide (NoOperationAt s)) = true := by decide
theorem witness_DecoderChecksInOrder_register :
    [at0 [0xbf, 11, 0, 0, 5, 0, 0, 0], at0 [0x95, 0xb0, 0, 0, 0, 0, 0, 0]].all
      (fun s => fetchChecksPass s && !decide (NoOperationAt s) &&
        decide (10 < (nibblesAt s).1 ∨ 10 < (nibblesAt s).2)) = true := by decide
theorem witness_DecoderChecksInOrder_decoded :
    [at0 [0xbf, 0xaa, 0, 0, 5, 0, 0, 0], sWide, at0 [0xdc, 1, 0, 0, 64, 0, 0, 0, 0, 0, 0, 0, 0, 0, 0, 0]].all
      (fun s => fetchChecksPass s && !decide (NoOperationAt s) && decide ((nibblesAt s).1 ≤ 10) &&
        decide ((nibblesAt s).2 ≤ 10)) = true := by decide
theorem witness_DecodeOfEncode : ((Instr.be (f 15 15 (-1) 64) 5#32).wide = true) ∧
    ((Instr.add64K (f 15 15 (-1) (-1))).wide = false ∧ (Instr.add64K (f 15 15 (-1) (-1))).cont = 0#32) ∧
    ((Instr.call (f 10 10 (-1) 7)).wf = true ∧ (Instr.call (f 10 10 (-1) 7)).supported = true ∧ 7#32 ∈ [7#32]) := by decide
theorem witness_EncodeOfDecode :
    decode .be [7#32] (bs [0x85, 0xaa, 0xff, 0xff, 0, 0, 0, 7]) = .instr (.call (f 10 10 (-1) 7)) ∧
    decode .le [] (bs [0xdc, 1, 0, 0, 64, 0, 0, 0, 0, 0, 0, 0, 0, 0, 0, 0, 1]) = .instr (.be (f 1 0 0 64) 0#32) := by decide
theorem witness_ResetLeaves : (9#4 : RegId).toNat < 10 ∧ (0#4 : RegId).toNat < 10 := by decide
theorem witness_ResetMeetsTheInvariant : ({ Inputs.default with initStack := [(0, 1#8), (511, 1#8)] }).initStack.wf = true := by
  decide
theorem witness_StepRunsTheDecodedInstruction : sMov.status = .running ∧
    decode sMov.byteOrder sMov.helperIds (bytesAt sMov 16) = .instr (.mov64K (f 1 0 0 5)) ∧
    decode sZero.byteOrder sZero.helperIds (bytesAt sZero 16) = .fault .unsupportedOpcode := by decide
theorem witness_StepRunsTheEncodedInstruction : sWide.status = .running ∧ 0 ≤ sWide.pc ∧
    sWide.prog.drop (8 * sWide.pc.toNat) = encode sWide.byteOrder (.lddw (f 1 0 0 7) 0#32) ++ [] ∧
    (Instr.lddw (f 1 0 0 7) 0#32).wf = true ∧ (Instr.lddw (f 1 0 0 7) 0#32).supported = true ∧
    (Instr.lddw (f 1 0 0 7) 0#32).format ≠ .call := by decide
theorem witness_StateMachineTransitions :
    (sZero.status = .running ∧ sZero.fetchDecode = .fault .unsupportedOpcode) ∧
    (exitState.status = .running ∧ exitState.fetchDecode = .instr (.exit (f 0 0 0 0))) ∧
    (sMov.status = .running ∧ sMov.fetchDecode = .instr (.mov64K (f 1 0 0 5)) ∧ (Instr.mov64K (f 1 0 0 5)).format ≠ .exit) ∧
    exitState.stepped.status = .exited ∧ sFaulted.status = .faulted := by decide
theorem witness_FaultEntryWritesTheRecordOnly : FirstWordMissing { sMov with pc := 1 } ∧
    (¬FirstWordMissing sMov ∧ ¬WideAt sMov) ∧ (¬FirstWordMissing sWide ∧ WideAt sWide ∧ ¬ContinuationMissing sWide) ∧
    (sZero.status = .running ∧ sZero.fetchDecode = .fault .unsupportedOpcode) ∧
    (s0.status = .running ∧ (got (exec (.add64K (f 10 0 0 1)) s0)).status = .faulted) := by decide
theorem witness_FaultsArePrecise : sZero.status = .running ∧ step sZero = .next sZero.stepped ∧
    sZero.stepped.status = .faulted := ⟨by decide, step_next_stepped _, by decide⟩
theorem witness_NoReturnFromAFault : sFaulted.status = .faulted ∧ sFaulted.fault.isSome = true ∧
    exec (.ja (f 0 0 0 0)) sFaulted = .next (got (exec (.ja (f 0 0 0 0)) sFaulted)) :=
  ⟨by decide, by decide, exec_got _ _⟩
theorem witness_TerminalStatesNeverChange : sFaulted.status ≠ .running ∧ exitState.status = .running ∧
    step exitState = .next exitState.stepped ∧ exitState.stepped.status = .exited :=
  ⟨by decide, by decide, step_next_stepped _, by decide⟩
/-- Both sides of the equivalence: dst 10 faults where the write is reached, dst 9 does not. -/
theorem witness_FrameRegisterWriteViolationExactly : s0.status = .running ∧ (f 10 10 (-8) 0).src.toNat ≤ 10 ∧
    AccessInside (.add64K (f 10 10 (-8) 0)) s0 ∧
    (got (exec (.ldxdw (f 10 10 (-8) 0)) s0)).fault = some ⟨.frameRegisterWriteViolation, 0, []⟩ ∧
    (got (exec (.ldxdw (f 10 10 (-7) 0)) s0)).fault = some ⟨.memoryBoundsFault, 0, []⟩ ∧
    (got (exec (.mov64K (f 9 10 0 0)) s0)).fault = none :=
  ⟨by decide, by decide, by intro b n h; simp [access] at h, by decide, by decide, by decide⟩
theorem witness_MemoryBoundsFaultExactly : s0.status = .running ∧ (f 10 10 (-8) 0).dst.toNat ≤ 10 ∧
    (got (exec (.stxdw (f 1 0 0 0)) s0)).fault = none ∧
    (got (exec (.stxdw (f 2 0 0 0)) s0)).fault = some ⟨.memoryBoundsFault, 0, []⟩ := by decide
theorem witness_RegisterReads : (10#4 : RegId).toNat < 11 ∧ 11 ≤ (11#4 : RegId).toNat ∧ 11 ≤ (15#4 : RegId).toNat ∧
    s0.status = .running ∧ (f 10 10 0 0).dst.toNat ≤ 10 ∧ (f 10 10 0 0).src.toNat ≤ 10 := by decide
theorem witness_RegistersOthersKeep :
    exec (.add64X (f 9 10 0 0)) s0 = .next (got (exec (.add64X (f 9 10 0 0)) s0)) ∧
    ¬((Instr.add64X (f 9 10 0 0)).writesDst = true ∧ (Instr.add64X (f 9 10 0 0)).fields.dst = 8#4) ∧
    ¬((Instr.call (f 0 0 0 7)).format = .call ∧ (6#4 : RegId).toNat ≤ 5) ∧ 10 ≤ (10#4 : RegId).toNat :=
  ⟨exec_got _ _, by decide, by decide, by decide⟩
theorem witness_StateOthersKeep : exec (.stxw (f 1 3 0 0)) s0 = .next (got (exec (.stxw (f 1 3 0 0)) s0)) ∧
    access (.stxw (f 1 3 0 0)) = some (1#4, 4) ∧ ((503 : Nat) : Int) < ea s0 1#4 (f 1 3 0 0) ∧
    ea s0 1#4 (f 1 3 0 0) + (4 : Nat) ≤ ((508 : Nat) : Int) ∧ (Instr.add64K (f 1 0 0 1)).format ≠ .st :=
  ⟨exec_got _ _, by decide, by decide, by decide, by decide⟩
theorem witness_StepKeepsTheInvariant : Inv sMov ∧ step sMov = .next sMov.stepped ∧ Inv sFaulted :=
  ⟨by decide, step_next_stepped _, by decide⟩
theorem witness_StepKeepsPcInRange : PcInRange sMov ∧ PcInRange { sMov with pc := -32768 } ∧
    PcInRange { sMov with pc := 32768 } ∧ step sMov = .next sMov.stepped :=
  ⟨by decide, by decide, by decide, step_next_stepped _⟩
theorem witness_StackReads : Inside 504 8 ∧ Inside 0 1 ∧ ¬Inside 505 8 ∧ ¬Inside (-1) 1 ∧
    (f 9 10 (-7) 0).src.toNat ≤ 10 ∧ s0.memRead (ea s0 10#4 (f 9 10 (-7) 0)) 8 = none := by decide
theorem witness_StackWrites : s0.stack.wf = true ∧ Inside 508 4 ∧ ¬Inside 509 4 ∧
    (f 10 9 0 0).dst.toNat ≤ 10 ∧ s0.memWrite (ea s0 10#4 (f 10 9 0 0)) 1 1#64 = none := by decide
theorem witness_DataByteOrder : Inside 504 8 ∧ (2 + 2 ≤ 4 ∧ s0.stack.wf = true ∧ (s0.memWrite 500 4 0x11223344#64).isSome = true) ∧
    s0.byteOrder = .le ∧ ({ s0 with byteOrder := .be }).byteOrder = .be ∧
    (({ s0 with byteOrder := .be }).memWrite 500 4 0x11223344#64).isSome = true := by decide
theorem witness_StoreThenLoadReturnsTheValue : s0.stack.wf = true ∧ (f 1 3 0 0).dst.toNat ≤ 10 ∧
    (f 9 10 (-8) 0).src.toNat ≤ 10 ∧ (f 9 10 (-8) 0).dst.toNat < 10 ∧ Inside (ea s0 1#4 (f 1 3 0 0)) 8 ∧
    exec (.stxdw (f 1 3 0 0)) s0 = .next (got (exec (.stxdw (f 1 3 0 0)) s0)) ∧
    ea (got (exec (.stxdw (f 1 3 0 0)) s0)) 10#4 (f 9 10 (-8) 0) = ea s0 1#4 (f 1 3 0 0) :=
  ⟨by decide, by decide, by decide, by decide, by decide, exec_got _ _, by decide⟩
theorem witness_BigEndianSwapThenStore : s0.stack.wf = true ∧ (3#4 : RegId).toNat < 10 ∧ (10#4 : RegId).toNat ≤ 10 ∧
    (10#4 : RegId) ≠ 3#4 ∧
    exec (.be ⟨3#4, 0#4, 0#16, 32#32⟩ 0#32) s0 = .next (got (exec (.be ⟨3#4, 0#4, 0#16, 32#32⟩ 0#32) s0)) ∧
    Inside (ea s0 10#4 ⟨10#4, 3#4, -4#16, 0#32⟩) 4 ∧
    exec (.stxw ⟨10#4, 3#4, -4#16, 0#32⟩) (got (exec (.be ⟨3#4, 0#4, 0#16, 32#32⟩ 0#32) s0)) =
      .next (got (exec (.stxw ⟨10#4, 3#4, -4#16, 0#32⟩) (got (exec (.be ⟨3#4, 0#4, 0#16, 32#32⟩ 0#32) s0)))) :=
  ⟨by decide, by decide, by decide, by decide, exec_got _ _, by decide, exec_got _ _⟩
/-- The register hypotheses that the statements about ALU instructions, byte swaps and `lddw` share: dst 9, 10 and 11,
src 10 and 11. -/
theorem witness_RegisterForms : (f 9 10 0 0).dst.toNat < 10 ∧ (f 10 10 0 0).dst.toNat = 10 ∧ 10 < (f 11 10 0 0).dst.toNat ∧
    10 < (f 15 0 0 0).dst.toNat ∧ (f 9 10 0 0).src.toNat ≤ 10 ∧ 10 < (f 9 11 0 0).src.toNat := by decide
theorem witness_Alu64Arithmetic : got (exec (.add64X (f 9 10 0 0)) s0) = written s0 9#4 512#64 1 ∧
    (got (exec (.neg64 (f 10 0 0 0)) s0)).fault = some ⟨.frameRegisterWriteViolation, 0, []⟩ ∧
    (got (exec (.mul64X (f 9 11 0 0)) s0)).fault = some ⟨.invalidRegister, 0, []⟩ := by decide
theorem witness_Alu64Division : got (exec (.div64K (f 1 0 0 0)) s0) = written s0 1#4 0#64 1 ∧
    got (exec (.mod64X (f 2 1 0 0)) s0) = written s0 2#4 1#64 1 := by decide
theorem witness_Alu64BitwiseAndMove : got (exec (.mov64X (f 9 10 0 0)) s0) = written s0 9#4 512#64 1 ∧
    (got (exec (.or64K (f 11 0 0 0)) s0)).fault = some ⟨.invalidRegister, 0, []⟩ := by decide
theorem witness_Alu64Shifts : got (exec (.lsh64K (f 1 0 0 64)) s0) = written s0 1#4 504#64 1 ∧
    got (exec (.lsh64K (f 1 0 0 65)) s0) = written s0 1#4 1008#64 1 := by decide
theorem witness_Alu32Arithmetic : got (exec (.sub32X (f 1 2 0 0)) s0) = written s0 1#4 0xffffffff#64 1 ∧
    (got (exec (.neg32 (f 10 0 0 0)) s0)).fault = some ⟨.frameRegisterWriteViolation, 0, []⟩ := by decide
theorem witness_Alu32Division : got (exec (.mod32K (f 1 0 0 0)) s0) = written s0 1#4 0#64 1 ∧
    got (exec (.div32X (f 2 1 0 0)) s0) = written s0 2#4 1#64 1 := by decide
theorem witness_Alu32BitwiseAndMove : got (exec (.mov32X (f 9 3 0 0)) s0) = written s0 9#4 0x55667788#64 1 ∧
    (got (exec (.xor32X (f 9 11 0 0)) s0)).fault = some ⟨.invalidRegister, 0, []⟩ := by decide
theorem witness_Alu32Shifts : got (exec (.rsh32K (f 1 0 0 32)) s0) = written s0 1#4 504#64 1 ∧
    got (exec (.rsh32K (f 1 0 0 33)) s0) = written s0 1#4 252#64 1 := by decide
theorem witness_ByteSwaps : (f 1 0 0 16).imm = BitVec.ofNat 32 (8 * 2) ∧ (f 1 0 0 32).imm = BitVec.ofNat 32 (8 * 4) ∧
    (f 1 0 0 64).imm = 64#32 ∧
    ((f 1 0 0 33).imm ≠ 16#32 ∧ (f 1 0 0 33).imm ≠ 32#32 ∧ ¬((f 1 0 0 33).imm = 64#32 ∧ 0#32 = 0#32)) ∧
    ((f 1 0 0 64).imm ≠ 16#32 ∧ (f 1 0 0 64).imm ≠ 32#32 ∧ ¬((f 1 0 0 64).imm = 64#32 ∧ 1#32 = 0#32)) := by decide
/-- A big-endian swap of all of R9. -/
def swapNine : Instr := .be ⟨9#4, 0#4, 0#16, BitVec.ofNat 32 (8 * 8)⟩ 0#32
theorem witness_SwappingTwiceTruncates : (9#4 : RegId).toNat < 10 ∧ exec swapNine s0 = .next (got (exec swapNine s0)) ∧
    exec swapNine (got (exec swapNine s0)) = .next (got (exec swapNine (got (exec swapNine s0)))) :=
  ⟨by decide, exec_got _ _, exec_got _ _⟩
theorem witness_WideLoad : got (exec (.lddw (f 9 0 0 (-1)) 1#32) s0) = written s0 9#4 0x1ffffffff#64 2 ∧
    (got (exec (.lddw (f 10 0 0 0) 0#32) s0)).fault = some ⟨.frameRegisterWriteViolation, 0, []⟩ := by decide
theorem witness_LoadsReadTheStack : (f 9 1 0 0).src.toNat ≤ 10 ∧ Inside (ea s0 1#4 (f 9 1 0 0)) 8 ∧
    ¬Inside (ea s0 2#4 (f 9 2 0 0)) 8 ∧ ¬Inside (ea s0 0#4 (f 9 0 (-1) 0)) 1 ∧ 10 < (f 9 11 0 0).src.toNat := by decide
/-- The forms with dst 11, out of bounds and in bounds (log 11). -/
theorem witness_LoadsReadTheStack_dst : 10 < (f 11 2 0 0).dst.toNat ∧
    (got (exec (.ldxdw (f 11 2 0 0)) s0)).fault = some ⟨.memoryBoundsFault, 0, []⟩ ∧
    (got (exec (.ldxdw (f 11 1 0 0)) s0)).fault = some ⟨.invalidRegister, 0, []⟩ := by decide
theorem witness_ImmediateStores : s0.stack.wf = true ∧ (f 1 0 0 0).dst.toNat ≤ 10 ∧ Inside (ea s0 1#4 (f 1 0 0 0)) 8 ∧
    ¬Inside (ea s0 2#4 (f 2 0 0 0)) 8 ∧ 10 < (f 11 0 0 0).dst.toNat := by decide
theorem witness_RegisterStores : s0.stack.wf = true ∧ (f 10 3 (-4) 0).dst.toNat ≤ 10 ∧ (f 10 3 (-4) 0).src.toNat ≤ 10 ∧
    Inside (ea s0 10#4 (f 10 3 (-4) 0)) 4 ∧ ¬Inside (ea s0 10#4 (f 10 3 (-3) 0)) 4 ∧ 10 < (f 10 11 0 0).src.toNat := by
  decide
theorem witness_JumpAlways : (f 0 0 (-1) 0).off = -1#16 ∧ (at0 [5, 0, 0xff, 0xff, 0, 0, 0, 0]).status = .running ∧
    (at0 [5, 0, 0xff, 0xff, 0, 0, 0, 0]).fetchDecode = .instr (.ja (f 0 0 (-1) 0)) := by decide
theorem witness_Comparators64 : (f 10 10 0 0).dst.toNat ≤ 10 ∧ (f 10 10 0 0).src.toNat ≤ 10 ∧ 10 < (f 11 0 0 0).dst.toNat ∧
    10 < (f 0 11 0 0).src.toNat ∧ (f 10 0 0 (-1)).imm = -1#32 := by decide
theorem witness_Comparators32 : (f 10 10 0 0).dst.toNat ≤ 10 ∧ (f 10 10 0 0).src.toNat ≤ 10 ∧ 10 < (f 11 0 0 0).dst.toNat ∧
    10 < (f 0 11 0 0).src.toNat := by decide
theorem witness_CallRunsTheHelper : (callState 7).helpers.lookup (f 0 0 0 7).imm = some sumEffect ∧
    (callState 7).helpers.lookup (f 0 0 0 8).imm = none ∧ 6 ≤ (6#4 : RegId).toNat ∧ (5#4 : RegId).toNat ≤ 5 := by decide
theorem witness_SumHelperOfTheSpec : (callState 7).helpers.lookup (f 10 10 (-1) 7).imm = some sumEffect ∧
    6 ≤ (10#4 : RegId).toNat := by decide

/-- An effect with two stores to 511, one of them to 512. -/
def storingEffect : HelperEffect :=
  ⟨sumEffect.regs, true, [(.const 511#64, .const 1#64), (.const 511#64, .const 2#64), (.const 512#64, .const 3#64)]⟩
theorem witness_HelperOutcomesFollowTheEffect : Memory.wf [(511, 1#8)] = true ∧
    storingEffect.stores = [storingEffect.stores[0]] ++ storingEffect.stores[1] :: [storingEffect.stores[2]] ∧
    (storingEffect.stores[1].1.eval ⟨0, 0, 0, 0, 0⟩ (fun _ => 0#8) (fun _ => 0#64)).toNat < 512 ∧
    (∀ q ∈ [storingEffect.stores[2]], q.1.eval ⟨0, 0, 0, 0, 0⟩ (fun _ => 0#8) (fun _ => 0#64) ≠ 511#64) ∧
    (∀ p ∈ storingEffect.stores, (p.1.eval ⟨0, 0, 0, 0, 0⟩ (fun _ => 0#8) (fun _ => 0#64)).toNat ≠ 510) ∧
    storingEffect.keepsStack = true := by decide
theorem witness_HelperOutcomesFollowTheEffect_allowed :
    storingEffect.Allows ⟨0, 0, 0, 0, 0⟩ [] (storingEffect.outcome ⟨0, 0, 0, 0, 0⟩ [] (fun _ => 0#64) (fun _ => 0#8)) :=
  ⟨_, _, rfl⟩
theorem witness_FunctionalHelpersMakeRunsDeterministic :
    ∀ p ∈ [(7#32, (⟨#v[.op .add (.arg .a1) (.arg .a2), .const 0#64, .arg .a2, .arg .a3, .arg .a4, .arg .a5], true,
      [(.arg .a1, .byte (.arg .a2))]⟩ : HelperEffect))], p.2.functional = true := by decide

end Sys2Proof.Tests
end

section
/-! SUPPORT. The frame of a step: what no instruction changes, derived from `Effect`, and one induction over runs. -/

namespace Sys2Proof.Machine

variable {s t : State} {i : Instr}

/-! ## Registers -/

/-- A register changes only where it is a destination below 10 or one of those that a helper replaces. -/
theorem Effect.reg_eq {r : RegId} (h : Effect i s t)
    (hdst : i.writesDst = true → i.fields.dst = r → 10 ≤ r.toNat) (hlow : i.format = .call → 5 < r.toNat) :
    t.reg r = s.reg r := by
  cases h with
  | fault k => rfl
  | write v hw hd =>
    have hne : i.fields.dst ≠ r := by
      rintro rfl
      have := hdst hw rfl
      omega
    simp [State.reg_setReg, hne, show i.fields.dst.toNat ≤ 10 by omega]
  | store bs => rfl
  | jump n => rfl
  | call e hf he => simp only [State.reg, State.reg?, helperRegs_high s _ e (hlow hf)]
  | exit => rfl

/-- No instruction changes a register from R10 on: a write to it faults (10_state.md R23). -/
theorem Effect.reg_of_ten_le {r : RegId} (h : Effect i s t) (hr : 10 ≤ r.toNat) : t.reg r = s.reg r :=
  h.reg_eq (fun _ _ => hr) (fun _ => by omega)

theorem step_keeps_frame_pointer (h : step s = .next t) : t.reg 10#4 = s.reg 10#4 := by
  obtain ⟨-, rfl⟩ | ⟨-, k, -, rfl⟩ | ⟨-, i, -, he⟩ := step_cases h
  · rfl
  · rfl
  · exact he.reg_of_ten_le le_rfl

/-! ## The environment's inputs -/

/-- The two states have the same PROG, BYTE_ORDER and HELPERS. -/
def SameInputs (s t : State) : Prop := t.prog = s.prog ∧ t.byteOrder = s.byteOrder ∧ t.helpers = s.helpers

theorem SameInputs.refl (s : State) : SameInputs s s := ⟨rfl, rfl, rfl⟩

theorem SameInputs.trans {u : State} (h : SameInputs s t) (h' : SameInputs t u) : SameInputs s u := by
  obtain ⟨hp, ho, hh⟩ := h
  obtain ⟨hp', ho', hh'⟩ := h'
  exact ⟨hp'.trans hp, ho'.trans ho, hh'.trans hh⟩

theorem Effect.sameInputs (h : Effect i s t) : SameInputs s t := by
  cases h <;> exact ⟨rfl, rfl, rfl⟩

theorem step_sameInputs (h : step s = .next t) : SameInputs s t := by
  obtain ⟨-, rfl⟩ | ⟨-, k, -, rfl⟩ | ⟨-, i, -, he⟩ := step_cases h
  · exact .refl _
  · exact ⟨rfl, rfl, rfl⟩
  · exact he.sameInputs

/-! ## The invariant -/

theorem Effect.stack_wf (h : Effect i s t) (hm : s.stack.wf = true) : t.stack.wf = true := by
  cases h with
  | fault k => exact hm
  | write v => exact hm
  | store bs _ _ hb => exact Memory.wf_writeBytes hm bs (toNat_add_le_of_inBounds hb)
  | jump n => exact hm
  | call e => exact wf_helperStack hm _ e
  | exit => exact hm

/-- From Running an instruction takes a fault, or it leaves FAULT as it is and does not enter Faulted. -/
theorem Effect.faults_or_keeps_fault (h : Effect i s t) (hs : s.status = .running) :
    (∃ k, t = s.takeFault k) ∨ (t.fault = s.fault ∧ t.status ≠ .faulted) := by
  cases h with
  | fault k => exact .inl ⟨k, rfl⟩
  | write v => exact .inr ⟨rfl, by simp [hs]⟩
  | store bs => exact .inr ⟨rfl, by simp [hs]⟩
  | jump n => exact .inr ⟨rfl, by simp [hs]⟩
  | call e => exact .inr ⟨rfl, by simp [hs]⟩
  | exit => exact .inr ⟨rfl, by simp⟩

/-- Fault entry records the `pc` and the bytes that the state keeps (60_exceptions.md R350). -/
theorem Inv.takeFault (h : Inv s) (k : FaultKind) : Inv (s.takeFault k) := by
  obtain ⟨hfp, hwf, -, -⟩ := h
  exact ⟨hfp, hwf, rfl, by simp⟩

theorem inv_of_no_fault (hfp : s.reg 10#4 = 512#64) (hwf : s.stack.wf = true) (hf : s.fault = none)
    (hs : s.status ≠ .faulted) : Inv s :=
  ⟨hfp, hwf, by simp [hf, hs], by simp [hf]⟩

theorem Inv.fault_eq_none (h : Inv s) (hs : s.status ≠ .faulted) : s.fault = none := by
  obtain ⟨-, -, hrec, -⟩ := h
  simpa [beq_eq_false_iff_ne.2 hs] using hrec

theorem Effect.keeps_inv (h : Effect i s t) (hs : s.status = .running) (hi : Inv s) : Inv t := by
  obtain ⟨k, rfl⟩ | ⟨hf, hst⟩ := h.faults_or_keeps_fault hs
  · exact hi.takeFault k
  · have hnone : s.fault = none := hi.fault_eq_none (by simp [hs])
    obtain ⟨hfp, hwf, -, -⟩ := hi
    exact inv_of_no_fault ((h.reg_of_ten_le le_rfl).trans hfp) (h.stack_wf hwf) (hf.trans hnone) hst

theorem step_keeps_inv (hi : Inv s) (h : step s = .next t) : Inv t := by
  obtain ⟨-, rfl⟩ | ⟨-, k, -, rfl⟩ | ⟨hs, i, -, he⟩ := step_cases h
  · exact hi
  · exact hi.takeFault k
  · exact he.keeps_inv hs hi

/-! ## The program counter -/

/-- Where an instruction was fetched, `pc` names a word wholly inside PROG (40_decoder.md R111). -/
theorem pc_inside_of_fetchDecode (h : s.fetchDecode = .instr i) : 0 ≤ s.pc ∧ s.pc + 1 ≤ (s.prog.length / 8 : Nat) := by
  obtain ⟨hread, -⟩ := of_decode h
  obtain ⟨b0, b1, b2, b3, b4, b5, b6, b7, rest, hbytes, -⟩ := of_readInstr hread
  have hlen : 8 ≤ s.fetchBytes.length := by simp [hbytes]
  unfold State.fetchBytes at hlen
  split at hlen
  · simp at hlen
  · simp only [List.length_take, List.length_drop] at hlen
    omega

/-- One step moves `pc` by at most what a 16-bit offset and the word itself allow (44_jump.md R250). -/
theorem Effect.pc_move_bounds (h : Effect i s t) : s.pc - 32767 ≤ t.pc ∧ t.pc ≤ s.pc + 32768 := by
  cases h with
  | fault k => simp only [State.takeFault_pc]; omega
  | write v =>
    have hlen : i.len ≤ 2 := by unfold Instr.len; split <;> omega
    simp only [State.advance_pc, State.setReg_pc]
    omega
  | store bs => simp only; omega
  | jump n _ hn =>
    have hlo := i.fields.off.le_two_mul_toInt
    have hhi := i.fields.off.two_mul_toInt_lt
    simp only [State.advance_pc]
    omega
  | call e => simp only; omega
  | exit => simp only; omega

theorem step_keeps_pcInRange (hp : PcInRange s) (h : step s = .next t) : PcInRange t := by
  obtain ⟨-, rfl⟩ | ⟨-, k, -, rfl⟩ | ⟨-, i, hd, he⟩ := step_cases h
  · exact hp
  · exact hp
  · obtain ⟨hlo, hhi⟩ := pc_inside_of_fetchDecode hd
    obtain ⟨hback, hforth⟩ := he.pc_move_bounds
    obtain ⟨hprog, -, -⟩ := he.sameInputs
    rw [PcInRange, hprog]
    omega

/-! ## Runs -/

/-- What every step keeps, every run keeps. -/
theorem State.after_induction {P : State → Prop} (hstep : ∀ s t, P s → step s = .next t → P t) (n : Nat) {s : State}
    (h : P s) : P (s.after n) := by
  induction n generalizing s with
  | zero => exact h
  | succ n ih => exact ih (hstep _ _ h (step_next_stepped s))

theorem State.after_succ_eq_stepped (n : Nat) (s : State) : s.after (n + 1) = (s.after n).stepped := by
  induction n generalizing s with
  | zero => rfl
  | succ n ih => exact ih s.stepped

/-! ## Reset -/

theorem reg_resetWith_frame (inp : Inputs) : (State.resetWith inp).reg 10#4 = 512#64 := by
  simp [State.reg, State.reg?]

theorem reg_resetWith_low (inp : Inputs) {r : RegId} (h : r.toNat < 10) :
    some ((State.resetWith inp).reg r) = inp.initRegs[r.toNat]? := by
  simp [State.reg, State.reg?, Vector.getElem?_push, h, Nat.ne_of_lt h]

theorem inv_resetWith (inp : Inputs) (h : inp.initStack.wf = true) : Inv (State.resetWith inp) :=
  inv_of_no_fault (reg_resetWith_frame inp) h rfl (by simp)

end Sys2Proof.Machine
end

section
/-! SUPPORT. An instruction whose two register ids name registers never raises InvalidRegister (10_state.md R22). -/

namespace Sys2Proof.Machine

/-- The result is not an InvalidRegister fault taken in `s`. -/
def NotInvalidRegister (s : State) (r : Result) : Prop := r ≠ raise s .invalidRegister

variable {s : State}

theorem notInvalidRegister_raise {k : FaultKind} (hk : k ≠ .invalidRegister) : NotInvalidRegister s (raise s k) := by
  simpa [NotInvalidRegister, raise, State.takeFault] using hk

theorem notInvalidRegister_withReg {j : RegId} (hj : j.toNat ≤ 10) {k : Word → Result}
    (h : NotInvalidRegister s (k (s.reg j))) : NotInvalidRegister s (withReg s j k) := by
  rwa [withReg_valid s hj]

section running
variable (hs : s.status = .running)
include hs

theorem notInvalidRegister_next {t : State} (ht : t.status = s.status ∨ t.status = .exited) :
    NotInvalidRegister s (.next t) := by
  intro h
  have hst : t.status = .faulted := congrArg State.status (Host.Outcome.next.inj h)
  simp [hst, hs] at ht

theorem notInvalidRegister_writeDst {j : RegId} (hj : j.toNat ≤ 10) (v : Word) (n : Int) :
    NotInvalidRegister s (writeDst s j v n) := by
  rcases Nat.lt_or_eq_of_le hj with h | h
  · rw [writeDst_low s h]; exact notInvalidRegister_next hs (.inl rfl)
  · rw [writeDst_frame s h]; exact notInvalidRegister_raise (by decide)

theorem notInvalidRegister_loadN {f : Fields} (hd : f.dst.toNat ≤ 10) (hr : f.src.toNat ≤ 10) (n : Nat) :
    NotInvalidRegister s (loadN n f s) := by
  cases hb : inBounds (effectiveAddress (s.reg f.src) f.off) n with
  | true => rw [loadN_inside n f s hr hb]; exact notInvalidRegister_writeDst hs hd _ _
  | false => rw [loadN_outside n f s hr hb]; exact notInvalidRegister_raise (by decide)

theorem notInvalidRegister_storeN {f : Fields} (hd : f.dst.toNat ≤ 10) (n : Nat) (v : Word) :
    NotInvalidRegister s (storeN n v f s) := by
  cases hb : inBounds (effectiveAddress (s.reg f.dst) f.off) n with
  | true => rw [storeN_inside n v f s hd hb]; exact notInvalidRegister_next hs (.inl rfl)
  | false => rw [storeN_outside n v f s hd hb]; exact notInvalidRegister_raise (by decide)

theorem notInvalidRegister_jumpIf (b : Bool) (f : Fields) : NotInvalidRegister s (jumpIf b f s) :=
  notInvalidRegister_next hs (.inl rfl)

theorem notInvalidRegister_swapTo {f : Fields} (hd : f.dst.toNat ≤ 10) (o : ByteOrder) (c : Word) (n : Int) :
    NotInvalidRegister s (swapTo o c n f s) := by
  unfold swapTo
  split
  · exact notInvalidRegister_withReg hd (notInvalidRegister_writeDst hs hd _ _)
  · exact notInvalidRegister_raise (by decide)

theorem notInvalidRegister_execCall (f : Fields) : NotInvalidRegister s (execCall f s) := by
  unfold execCall
  split
  · exact notInvalidRegister_next hs (.inl rfl)
  · exact notInvalidRegister_raise (by decide)

theorem notInvalidRegister_exec (i : Instr) (hd : i.fields.dst.toNat ≤ 10) (hr : i.fields.src.toNat ≤ 10) :
    NotInvalidRegister s (exec i s) := by
  cases i with
  | add64K f | sub64K f | mul64K f | div64K f | or64K f | and64K f | lsh64K f | rsh64K f | mod64K f | xor64K f
  | arsh64K f | neg64 f | add32K f | sub32K f | mul32K f | div32K f | or32K f | and32K f | lsh32K f | rsh32K f
  | mod32K f | xor32K f | arsh32K f | neg32 f =>
    exact notInvalidRegister_withReg hd (notInvalidRegister_writeDst hs hd _ _)
  | add64X f | sub64X f | mul64X f | div64X f | or64X f | and64X f | lsh64X f | rsh64X f | mod64X f | xor64X f
  | arsh64X f | add32X f | sub32X f | mul32X f | div32X f | or32X f | and32X f | lsh32X f | rsh32X f | mod32X f
  | xor32X f | arsh32X f =>
    exact notInvalidRegister_withReg hd (notInvalidRegister_withReg hr (notInvalidRegister_writeDst hs hd _ _))
  | mov64X f | mov32X f => exact notInvalidRegister_withReg hr (notInvalidRegister_writeDst hs hd _ _)
  | mov64K f | mov32K f | lddw f c => exact notInvalidRegister_writeDst hs hd _ _
  | le f c | be f c => exact notInvalidRegister_swapTo hs hd _ _ _
  | ldxw f | ldxh f | ldxb f | ldxdw f => exact notInvalidRegister_loadN hs hd hr _
  | stw f | sth f | stb f | stdw f => exact notInvalidRegister_storeN hs hd _ _
  | stxw f | stxh f | stxb f | stxdw f => exact notInvalidRegister_withReg hr (notInvalidRegister_storeN hs hd _ _)
  | ldabsw f | ldabsh f | ldabsb f | ldindw f | ldindh f | ldindb f | xaddw f | xadddw f =>
    exact notInvalidRegister_raise (by decide)
  | ja f => exact notInvalidRegister_jumpIf hs true _
  | jeqK f | jgtK f | jgeK f | jsetK f | jneK f | jsgtK f | jsgeK f | jltK f | jleK f | jsltK f | jsleK f
  | jeq32K f | jgt32K f | jge32K f | jset32K f | jne32K f | jsgt32K f | jsge32K f | jlt32K f | jle32K f | jslt32K f
  | jsle32K f => exact notInvalidRegister_withReg hd (notInvalidRegister_jumpIf hs _ _)
  | jeqX f | jgtX f | jgeX f | jsetX f | jneX f | jsgtX f | jsgeX f | jltX f | jleX f | jsltX f | jsleX f
  | jeq32X f | jgt32X f | jge32X f | jset32X f | jne32X f | jsgt32X f | jsge32X f | jlt32X f | jle32X f | jslt32X f
  | jsle32X f => exact notInvalidRegister_withReg hd (notInvalidRegister_withReg hr (notInvalidRegister_jumpIf hs _ _))
  | call f => exact notInvalidRegister_execCall hs f
  | exit f => exact notInvalidRegister_next hs (.inr rfl)

end running

end Sys2Proof.Machine
end

section
/-! PROOFS of the statements about the state (10_state.md). -/

namespace Sys2Proof.Proofs

open Sys2Proof.Machine Sys2Proof.Claims

/-- Settles O27, by the cases of a step: a terminal state stays, fault entry records what the state keeps, and every
other effect leaves R10 and FAULT and keeps the stack's form. -/
theorem stepKeepsTheInvariant : Obligations.StepKeepsTheInvariant :=
  fun _ _ hi h => step_keeps_inv hi h

/-- Settles O23. -/
theorem registerReads : Obligations.RegisterReads := by
  refine ⟨fun s r k h => ?_, fun s r k h => withReg_invalid s h k,
    fun i s hs hd hr => notInvalidRegister_exec hs i hd hr⟩
  rw [withReg_valid s (by omega)]
  simp [State.reg, State.reg?, h]

/-- Settles O24, from the one list of what an instruction can do. -/
theorem registersOthersKeep : Obligations.RegistersOthersKeep := by
  intro i s t r h
  have he := effect_of_exec h
  refine ⟨fun hdst hlow => he.reg_eq (fun hw hr => absurd ⟨hw, hr⟩ hdst) fun hf => ?_, he.reg_of_ten_le⟩
  exact not_le.1 fun h5 => hlow ⟨hf, h5⟩

/-- Settles O26, by induction over the run. -/
theorem inputsAreConstant : Obligations.InputsAreConstant := fun n s =>
  State.after_induction (P := SameInputs s) (fun _ _ hp h => hp.trans (step_sameInputs h)) n (.refl s)

/-- Settles O28, by induction over the run. -/
theorem framePointerIsConstant : Obligations.FramePointerIsConstant := by
  refine fun inp n => ⟨?_, ?_⟩
  · exact State.after_induction (P := fun s => s.reg 10#4 = 512#64)
      (fun _ _ hp h => (step_keeps_frame_pointer h).trans hp) n (reg_resetWith_frame inp)
  · rw [State.after_succ_eq_stepped]
    exact step_next_stepped _

/-- Settles O29: only a step that fetched an instruction moves `pc`, so it moves from inside PROG. -/
theorem stepKeepsPcInRange : Obligations.StepKeepsPcInRange :=
  fun _ _ hp h => step_keeps_pcInRange hp h

/-- Settles O12. -/
theorem resetLeaves : Obligations.ResetLeaves := fun inp _ =>
  ⟨rfl, rfl, reg_resetWith_frame inp, fun _ h => reg_resetWith_low inp h, rfl, rfl, rfl, rfl, rfl⟩

/-- Settles O13. -/
theorem resetMeetsTheInvariant : Obligations.ResetMeetsTheInvariant :=
  ⟨inv_resetWith Inputs.default rfl, inv_resetWith⟩

end Sys2Proof.Proofs
end

section
/-! SUPPORT. `compose` and `split` byte by byte: the sums and quotients that the statements write (00_scope.md R8). -/

namespace Sys2Proof.Claims

theorem composeLE_eq_sum (bs : List Byte) {b : Nat → Byte} (hb : ∀ k < bs.length, bs[k]? = some (b k)) :
    composeLE bs = ∑ k ∈ Finset.range bs.length, (b k).toNat * 256 ^ k := by
  induction bs generalizing b with
  | nil => rfl
  | cons c bs ih =>
    have hc : c = b 0 := by simpa using hb 0 (by simp)
    have htail : composeLE bs = ∑ k ∈ Finset.range bs.length, (b (k + 1)).toNat * 256 ^ k :=
      ih fun k hk => by simpa using hb (k + 1) (by simpa using hk)
    rw [composeLE, List.length_cons, Finset.sum_range_succ', htail, hc, Finset.mul_sum, Nat.add_comm]
    congr 1
    · exact Finset.sum_congr rfl fun k _ => by ring
    · simp

/-- `compose` adds up its bytes by weight; big-endian is the reversed sum. -/
theorem compose_eq_valueOf (o : ByteOrder) (bs : List Byte) {b : Nat → Byte}
    (hb : ∀ k < bs.length, bs[k]? = some (b k)) : compose o bs = valueOf o bs.length b := by
  cases o with
  | le => exact composeLE_eq_sum bs hb
  | be =>
    have hrev : ∀ k < bs.reverse.length, bs.reverse[k]? = some (b (bs.length - 1 - k)) := fun k hk => by
      rw [List.length_reverse] at hk
      rw [List.getElem?_reverse hk]
      exact hb _ (by omega)
    rw [compose, composeLE_eq_sum bs.reverse hrev, List.length_reverse, valueOf,
      ← Finset.sum_range_reflect _ bs.length]
    refine Finset.sum_congr rfl fun k hk => ?_
    have hk : k < bs.length := Finset.mem_range.1 hk
    rw [weight, Nat.sub_sub_self (by omega)]

theorem valueOf_congr (o : ByteOrder) {n : Nat} {b c : Nat → Byte} (h : ∀ k < n, b k = c k) :
    valueOf o n b = valueOf o n c :=
  Finset.sum_congr rfl fun k hk => by rw [h k (Finset.mem_range.1 hk)]

theorem valueOf_lt (o : ByteOrder) (n : Nat) (b : Nat → Byte) : valueOf o n b < 256 ^ n := by
  have h := compose_lt o ((List.range n).map b)
  rw [compose_eq_valueOf o _ (b := b) fun k hk => by
    simp [List.getElem?_range (by simpa using hk : k < n)]] at h
  simpa using h

theorem valueOf_one (o : ByteOrder) (b : Nat → Byte) : valueOf o 1 b = (b 0).toNat := by
  cases o <;> simp [valueOf, weight]

/-- Up to eight bytes fit a register. -/
theorem toNat_ofNat_valueOf (o : ByteOrder) {n : Nat} (hn : n ≤ 8) (b : Nat → Byte) :
    (BitVec.ofNat 64 (valueOf o n b)).toNat = valueOf o n b := by
  have hpow : 256 ^ n ≤ 256 ^ 8 := Nat.pow_le_pow_right (by decide) hn
  rw [BitVec.toNat_ofNat]
  exact Nat.mod_eq_of_lt ((valueOf_lt o n b).trans_le hpow)

theorem getElem?_splitLE {n k : Nat} (v : Nat) (hk : k < n) :
    (splitLE n v)[k]? = some (BitVec.ofNat 8 (v / 256 ^ k)) := by
  induction n generalizing v k with
  | zero => omega
  | succ n ih =>
    cases k with
    | zero => simp [splitLE]
    | succ k => rw [splitLE, List.getElem?_cons_succ, ih _ (by omega), Nat.div_div_eq_div_mul, Nat.pow_succ']

theorem getElem?_split (o : ByteOrder) {n k : Nat} (v : Nat) (hk : k < n) :
    (split o n v)[k]? = some (byteOf o n v k) := by
  cases o with
  | le => exact getElem?_splitLE v hk
  | be =>
    rw [split, List.getElem?_reverse (by simpa using hk), length_splitLE, getElem?_splitLE v (by omega)]
    rfl

end Sys2Proof.Claims
end

section
/-! SUPPORT. What a stack access reads and writes, byte by byte (20_memory.md R51 to R55), and which instructions make
one (43_load_store.md R210). -/

namespace Sys2Proof.Machine

open Sys2Proof.Claims

variable {s t : State} {addr : Int} {n : Nat}

/-! ## Reads -/

/-- The sizes of an access (20_memory.md R58) fit a register. -/
theorem size_le_eight (h : n ∈ [1, 2, 4, 8]) : n ≤ 8 := by
  simp only [List.mem_cons, List.not_mem_nil, or_false] at h
  omega

theorem inBounds_eq_false (h : ¬Inside addr n) : inBounds addr n = false :=
  Bool.eq_false_iff.2 fun hb => h (inBounds_iff.1 hb)

theorem memRead_eq_valueOf (s : State) (h : Inside addr n) :
    s.memRead addr n = some (BitVec.ofNat 64 (valueOf s.byteOrder n fun k => s.stack.read (addr.toNat + k))) := by
  have hsum := compose_eq_valueOf s.byteOrder (s.stack.readBytes addr.toNat n)
    (b := fun k => s.stack.read (addr.toNat + k)) fun k hk =>
      Memory.getElem?_readBytes _ _ _ _ (by simpa using hk)
  rw [memRead_inside s (inBounds_iff.2 h), hsum, Memory.length_readBytes]

theorem inBounds_of_memRead_eq_none (h : s.memRead addr n = none) : inBounds addr n = false := by
  simpa [State.memRead] using h

/-! ## Writes -/

theorem of_memWrite {v : Word} (h : s.memWrite addr n v = some t) :
    Inside addr n ∧ t = { s with stack := s.stack.writeBytes addr.toNat (split s.byteOrder n v.toNat) } := by
  cases hb : inBounds addr n with
  | true =>
    rw [memWrite_inside s v hb] at h
    exact ⟨inBounds_iff.1 hb, (Option.some.inj h).symm⟩
  | false => simp [memWrite_outside s v hb] at h

theorem inBounds_of_memWrite_eq_none {v : Word} (h : s.memWrite addr n v = none) : inBounds addr n = false := by
  simpa [State.memWrite] using h

theorem Memory.read_writeBytes_inside {m : Memory} (hm : m.wf = true) {a k : Nat} {bs : List Byte} {b : Byte}
    (h : a + bs.length ≤ Config.stackSize) (hk : bs[k]? = some b) : (m.writeBytes a bs).read (a + k) = b := by
  obtain ⟨hlt, -⟩ := List.getElem?_eq_some_iff.1 hk
  have hread := Memory.getElem?_readBytes (m.writeBytes a bs) a bs.length k hlt
  rw [Memory.readBytes_writeBytes hm bs h, hk] at hread
  exact (Option.some.inj hread).symm

theorem toNat_add_length_split_le (h : Inside addr n) (o : ByteOrder) (v : Nat) :
    addr.toNat + (split o n v).length ≤ Config.stackSize := by
  rw [length_split]
  exact toNat_add_le_of_inBounds (inBounds_iff.2 h)

/-- The bytes of a write inside the stack are the low bytes of its value in the given order (20_memory.md R54). -/
theorem read_writeBytes_split {m : Memory} (hm : m.wf = true) (h : Inside addr n) (o : ByteOrder) (v : Nat) {k : Nat}
    (hk : k < n) : (m.writeBytes addr.toNat (split o n v)).read (addr.toNat + k) = byteOf o n v k :=
  Memory.read_writeBytes_inside hm (toNat_add_length_split_le h o v) (getElem?_split o v hk)

theorem read_writeBytes_split_outside (m : Memory) (h : Inside addr n) (o : ByteOrder) (v : Nat) {a : Nat}
    (ha : (a : Int) < addr ∨ addr + n ≤ a) : (m.writeBytes addr.toNat (split o n v)).read a = m.read a :=
  Memory.read_writeBytes_outside _ _ _ _ (by simp; omega)

/-- A read inside a write sees the bytes that the write put there (20_memory.md R51). -/
theorem memRead_of_memWrite {v : Word} {m d : Nat} (hwf : s.stack.wf = true) (h : s.memWrite addr n v = some t)
    (hd : d + m ≤ n) : t.memRead (addr + d) m =
      some (BitVec.ofNat 64 (valueOf s.byteOrder m fun k => byteOf s.byteOrder n v.toNat (d + k))) := by
  obtain ⟨hin, rfl⟩ := of_memWrite h
  rw [memRead_eq_valueOf _ (by omega : Inside (addr + d) m)]
  refine congrArg (fun x => some (BitVec.ofNat 64 x)) (valueOf_congr _ fun k hk => ?_)
  rw [show (addr + d).toNat + k = addr.toNat + (d + k) by omega]
  exact read_writeBytes_split hwf hin _ _ (by omega)

/-! ## Instructions -/

theorem exec_of_mem_loads {p : (Fields → Instr) × Nat} (hp : p ∈ loads) (f : Fields) (s : State) :
    exec (p.1 f) s = loadN p.2 f s := by
  simp only [loads, List.mem_cons, List.not_mem_nil, or_false] at hp
  rcases hp with rfl | rfl | rfl | rfl <;> rfl

/-- Every store stores some value at the address of its dst register. -/
theorem exec_of_mem_stores {p : (Fields → Instr) × Nat} (hp : p ∈ stores) {f : Fields} (s : State)
    (hr : f.src.toNat ≤ 10) : ∃ v, exec (p.1 f) s = storeN p.2 v f s := by
  simp only [stores, List.mem_cons, List.not_mem_nil, or_false] at hp
  rcases hp with rfl | rfl | rfl | rfl | rfl | rfl | rfl | rfl
  iterate 4 exact ⟨immOperand f, rfl⟩
  iterate 4 exact ⟨s.reg f.src, storeReg_valid _ f s hr⟩

theorem exec_of_mem_storeLoadPairs {p : (Fields → Instr) × (Fields → Instr) × Nat} (hp : p ∈ storeLoadPairs)
    (f : Fields) (s : State) :
    exec (p.1 f) s = storeReg p.2.2 f s ∧ exec (p.2.1 f) s = loadN p.2.2 f s := by
  simp only [storeLoadPairs, List.mem_cons, List.not_mem_nil, or_false] at hp
  rcases hp with rfl | rfl | rfl | rfl <;> exact ⟨rfl, rfl⟩

/-- A load after a store to the same address answers the low bytes stored. -/
theorem loadN_of_storeN {v : Word} {f g : Fields} (hwf : s.stack.wf = true) (hd : f.dst.toNat ≤ 10)
    (hr : g.src.toNat ≤ 10) (hin : Inside (ea s f.dst f) n) (hst : storeN n v f s = .next t)
    (hea : ea t g.src g = ea s f.dst f) :
    loadN n g t = writeDst t g.dst (BitVec.ofNat 64 (v.toNat % 256 ^ n)) 1 := by
  have hb : inBounds (ea s f.dst f) n = true := inBounds_iff.2 hin
  rw [loadN_inside n g t hr (by rwa [← hea] at hb), show effectiveAddress (t.reg g.src) g.off = _ from hea]
  rw [storeN_inside n v f s hd hb] at hst
  cases hst
  have hbytes := Memory.readBytes_writeBytes hwf (split s.byteOrder n v.toNat)
    (toNat_add_length_split_le hin _ _)
  rw [length_split] at hbytes
  exact congrArg (fun x => writeDst _ g.dst (BitVec.ofNat 64 x) 1)
    ((congrArg (compose s.byteOrder) hbytes).trans (compose_split _ _ _))

/-! ## The frame -/

theorem Effect.stack_eq {i : Instr} (h : Effect i s t) (hst : i.format ≠ .st) (hstx : i.format ≠ .stx)
    (hcall : i.format ≠ .call) : t.stack = s.stack := by
  cases h with
  | fault k => rfl
  | write v => rfl
  | store bs hf => exact (hf.elim hst hstx).elim
  | jump n => rfl
  | call e hf => exact absurd hf hcall
  | exit => rfl

theorem Effect.draws_eq {i : Instr} (h : Effect i s t) (hcall : i.format ≠ .call) : t.draws = s.draws := by
  cases h with
  | call e hf => exact absurd hf hcall
  | _ => rfl

theorem Effect.status_eq_or_faulted {i : Instr} (h : Effect i s t) (hexit : i.format ≠ .exit) :
    t.status = s.status ∨ t.status = .faulted := by
  cases h with
  | fault k => exact .inr rfl
  | exit hf => exact absurd hf hexit
  | _ => exact .inl rfl

variable {v : Word} {f : Fields} {a : Nat}

/-- A store, completed or faulting, leaves the bytes outside its access (20_memory.md R54). -/
theorem storeN_read_outside (h : storeN n v f s = .next t)
    (ha : (a : Int) < ea s f.dst f ∨ ea s f.dst f + n ≤ a) : t.stack.read a = s.stack.read a := by
  by_cases hd : f.dst.toNat ≤ 10
  · cases hb : inBounds (ea s f.dst f) n with
    | true =>
      rw [storeN_inside n v f s hd hb] at h
      cases h
      exact read_writeBytes_split_outside _ (inBounds_iff.1 hb) _ _ ha
    | false =>
      rw [storeN_outside n v f s hd hb] at h
      cases h
      rfl
  · rw [storeN, withReg_invalid s (by omega)] at h
    cases h
    rfl

theorem storeReg_read_outside (h : storeReg n f s = .next t)
    (ha : (a : Int) < ea s f.dst f ∨ ea s f.dst f + n ≤ a) : t.stack.read a = s.stack.read a := by
  by_cases hr : f.src.toNat ≤ 10
  · rw [storeReg_valid n f s hr] at h
    exact storeN_read_outside h ha
  · rw [storeReg, withReg_invalid s (by omega)] at h
    cases h
    rfl

/-- An instruction with an access leaves the bytes outside it: a load leaves all of them. -/
theorem exec_read_outside {i : Instr} {base : RegId} (h : exec i s = .next t) (hacc : access i = some (base, n))
    (ha : (a : Int) < ea s base i.fields ∨ ea s base i.fields + n ≤ a) : t.stack.read a = s.stack.read a := by
  cases i with
  | ldxb f | ldxh f | ldxw f | ldxdw f =>
    rw [(effect_of_exec h).stack_eq (by simp [Instr.format]) (by simp [Instr.format]) (by simp [Instr.format])]
  | stb f | sth f | stw f | stdw f =>
    cases hacc
    exact storeN_read_outside h ha
  | stxb f | stxh f | stxw f | stxdw f =>
    cases hacc
    exact storeReg_read_outside h ha
  | _ => cases hacc

end Sys2Proof.Machine
end

section
/-! PROOFS of the statements about the stack (20_memory.md). -/

namespace Sys2Proof.Proofs

open Sys2Proof.Machine Sys2Proof.Claims

/-- Settles O25, from the one list of what an instruction can do and, for the size of an access, the stores. -/
theorem stateOthersKeep : Obligations.StateOthersKeep := by
  intro i s t h
  have he := effect_of_exec h
  obtain ⟨hprog, horder, hhelpers⟩ := he.sameInputs
  exact ⟨hprog, horder, hhelpers, he.stack_eq, fun _ _ hacc _ ha => exec_read_outside h hacc ha, he.draws_eq,
    he.status_eq_or_faulted⟩

/-- Settles O30: a read is the weighted sum of the bytes it names. -/
theorem stackReads : Obligations.StackReads := by
  refine ⟨fun s addr n hn hin => ?_, fun s addr n hout => memRead_outside s (inBounds_eq_false hout),
    fun p hp f s hr hnone => ?_, fun s t addr n horder hbytes => ?_⟩
  · have htoNat := toNat_ofNat_valueOf s.byteOrder (size_le_eight hn) fun k => s.stack.read (addr.toNat + k)
    refine ⟨_, memRead_eq_valueOf s hin, htoNat, ?_⟩
    rw [htoNat, Nat.pow_mul]
    exact valueOf_lt _ _ _
  · rw [exec_of_mem_loads hp]
    exact loadN_outside _ f s hr (inBounds_of_memRead_eq_none hnone)
  · by_cases hin : Inside addr n
    · rw [memRead_eq_valueOf t hin, memRead_eq_valueOf s hin, horder, valueOf_congr _ hbytes]
    · rw [memRead_outside t (inBounds_eq_false hin), memRead_outside s (inBounds_eq_false hin)]

/-- Settles O31. -/
theorem stackWrites : Obligations.StackWrites := by
  refine ⟨fun s addr n v _ hwf hin => ?_, fun s addr n v hout => memWrite_outside s v (inBounds_eq_false hout),
    fun p hp f s v hd hr hnone => ?_⟩
  · exact ⟨_, memWrite_inside s v (inBounds_iff.2 hin), rfl, Memory.wf_writeBytes hwf _ (toNat_add_length_split_le hin _ _),
      fun k hk => read_writeBytes_split hwf hin _ _ hk, fun a ha => read_writeBytes_split_outside _ hin _ _ ha⟩
  · obtain ⟨w, hw⟩ := exec_of_mem_stores hp s hr
    rw [hw]
    exact storeN_outside _ w f s hd (inBounds_of_memWrite_eq_none hnone)

/-- Settles O32: the weights of the two orders, and the bytes that a write put where a narrower read looks. -/
theorem dataByteOrder : Obligations.DataByteOrder := by
  refine ⟨fun s addr n hn hin => ?_, fun s t addr n m d v hn hm hd hwf h => ?_, fun s t hwf h => ?_⟩
  · refine ⟨_, memRead_eq_valueOf s hin, ?_⟩
    rw [toNat_ofNat_valueOf _ (size_le_eight hn)]
    refine ⟨fun ho => by rw [ho]; rfl, fun ho => by rw [ho]; rfl, ?_⟩
    rintro rfl
    exact valueOf_one _ _
  · exact ⟨_, memRead_of_memWrite hwf h hd, toNat_ofNat_valueOf _ (size_le_eight hm) _⟩
  · have hbytes : t.stack.readBytes 500 4 = split s.byteOrder 4 0x11223344 := by
      obtain ⟨hin, rfl⟩ := of_memWrite h
      simpa using Memory.readBytes_writeBytes hwf _ (toNat_add_length_split_le hin s.byteOrder 0x11223344)
    have hbyte := memRead_of_memWrite (m := 1) (d := 0) hwf h (by decide)
    have hhalf := memRead_of_memWrite (m := 2) (d := 2) hwf h (by decide)
    constructor
    all_goals
      intro ho
      rw [ho] at hbytes hbyte hhalf
      exact ⟨hbytes, hbyte, hhalf⟩

/-- Settles O33: the bytes read back are the bytes written, and `compose` of `split` truncates. -/
theorem storeThenLoadReturnsTheValue : Obligations.StoreThenLoadReturnsTheValue := by
  intro p hp f g s t hwf hd hr hgr hgd hin hst hea
  obtain ⟨hstore, -⟩ := exec_of_mem_storeLoadPairs hp f s
  obtain ⟨-, hload⟩ := exec_of_mem_storeLoadPairs hp g t
  rw [hstore, storeReg_valid _ f s hr] at hst
  rw [hload, loadN_of_storeN hwf hd hgr hin hst hea]
  exact writeDst_low t hgd _ 1

end Sys2Proof.Proofs
end

section
/-! SUPPORT. The two halves of the decoder on an encoding, and what the checking half accepts (30_encoding.md R99;
40_decoder.md R117, R118). -/

namespace Sys2Proof

open Sys2Proof.Claims

/-! ## The opcode byte -/

/-- Whatever the fields, each of the 120 values names an instruction of its class. -/
theorem isSome_named_of_mem {n : Nat} (h : n ∈ namedOpcodes) (f : Fields) (c : BitVec 32) :
    (named (BitVec.ofNat 8 n) f c).isSome = true := by
  have hall : namedOpcodes.all (fun n => (named (BitVec.ofNat 8 n) f c).isSome) = true := by
    simp only [namedOpcodes, List.all_append, Bool.and_eq_true]
    and_intros <;> rfl
  exact List.all_eq_true.1 hall n h

theorem Instr.opcode_mem_namedOpcodes (i : Instr) : i.opcode.toNat ∈ namedOpcodes := by
  refine List.contains_iff_mem.1 ?_
  cases i <;> rfl

theorem Instr.supported_eq_not_contains_opcode (i : Instr) :
    i.supported = !unsupportedOpcodes.contains i.opcode.toNat := by
  cases i <;> rfl

theorem Instr.supported_eq_false_iff (i : Instr) : i.supported = false ↔ i.opcode.toNat ∈ unsupportedOpcodes := by
  simp [Instr.supported_eq_not_contains_opcode]

theorem isSome_named_iff (b : Byte) (f : Fields) (c : BitVec 32) :
    (named b f c).isSome = true ↔ b.toNat ∈ namedOpcodes := by
  constructor
  · intro h
    obtain ⟨i, hi⟩ := Option.isSome_iff_exists.1 h
    obtain ⟨rfl, -⟩ := of_named hi
    exact Instr.opcode_mem_namedOpcodes i
  · intro h
    simpa using isSome_named_of_mem h f c

/-! ## The fields -/

theorem toNat_extractLsb'_low (b : Byte) : (b.extractLsb' 0 4).toNat = b.toNat % 16 := by simp

theorem toNat_extractLsb'_high (b : Byte) : (b.extractLsb' 4 4).toNat = b.toNat / 16 := by
  have hb := b.isLt
  rw [BitVec.extractLsb'_toNat, Nat.shiftRight_eq_div_pow]
  omega

theorem compose_le_two (a b : Byte) : compose .le [a, b] = a.toNat + 256 * b.toNat := rfl

theorem compose_le_four (a b c d : Byte) :
    compose .le [a, b, c, d] = a.toNat + 2 ^ 8 * b.toNat + 2 ^ 16 * c.toNat + 2 ^ 24 * d.toNat := by
  simp only [compose, composeLE]
  omega

/-- Big-endian bytes are the reversed little-endian ones. -/
theorem compose_be_two (a b : Byte) : compose .be [a, b] = 256 * a.toNat + b.toNat :=
  (compose_le_two b a).trans (Nat.add_comm _ _)

theorem compose_be_four (a b c d : Byte) :
    compose .be [a, b, c, d] = 2 ^ 24 * a.toNat + 2 ^ 16 * b.toNat + 2 ^ 8 * c.toNat + d.toNat :=
  (compose_le_four d c b a).trans (by omega)

theorem toInt_off_ofBytes (o : ByteOrder) (b1 b2 b3 b4 b5 b6 b7 : Byte) :
    (Fields.ofBytes o b1 b2 b3 b4 b5 b6 b7).off.toInt = Int.bmod (compose o [b2, b3]) (2 ^ 16) :=
  BitVec.toInt_ofNat _

theorem toInt_imm_ofBytes (o : ByteOrder) (b1 b2 b3 b4 b5 b6 b7 : Byte) :
    (Fields.ofBytes o b1 b2 b3 b4 b5 b6 b7).imm.toInt = Int.bmod (compose o [b4, b5, b6, b7]) (2 ^ 32) :=
  BitVec.toInt_ofNat _

/-! ## The continuation immediate -/

/-- Only a byte swap and the wide load hold a continuation immediate. -/
theorem Instr.cont_eq_zero_or (i : Instr) : i.cont = 0#32 ∨ i.format = .swap ∨ i.format = .lddw := by
  cases i
  case le => exact .inr (.inl rfl)
  case be => exact .inr (.inl rfl)
  case lddw => exact .inr (.inr rfl)
  all_goals exact .inl rfl

theorem Instr.widthWf_of_swap {i : Instr} (h : i.format = .swap) : i.widthWf = true ↔
    (i.fields.imm = 16#32 ∨ i.fields.imm = 32#32 ∨ i.fields.imm = 64#32) ∧ i.cont = 0#32 := by
  simp [Instr.widthWf, h, or_assoc]

theorem Instr.cont_eq_zero_of_widthWf {i : Instr} (h : i.widthWf = true) (hw : i.wide = false) : i.cont = 0#32 := by
  rcases i.cont_eq_zero_or with hc | hf | hf
  · exact hc
  · exact ((Instr.widthWf_of_swap hf).1 h).2
  · simp [Instr.wide, hf] at hw

/-- The composed immediate is a small number only where the continuation immediate is zero. -/
theorem Instr.imm64_eq_iff {i : Instr} (hc : i.wide = false → i.cont = 0#32) {n : BitVec 32} (hn : n.msb = false) :
    i.imm64 = n.signExtend 64 ↔ i.fields.imm = n ∧ i.cont = 0#32 := by
  cases hw : i.wide with
  | false =>
    have hinj : i.fields.imm.signExtend 64 = n.signExtend 64 ↔ i.fields.imm = n := by
      rw [← BitVec.toInt_inj, BitVec.toInt_signExtend_of_le (by decide), BitVec.toInt_signExtend_of_le (by decide),
        BitVec.toInt_inj]
    simp [Instr.imm64, hw, hc hw, hinj]
  | true =>
    have hext : n.signExtend 64 = 0#32 ++ n := by
      rw [BitVec.signExtend_eq_setWidth_of_msb_false hn, BitVec.setWidth_eq_append (by decide)]
      rfl
    simp only [Instr.imm64, hw, if_true, hext]
    constructor
    · intro h
      have hhigh := congrArg (BitVec.extractLsb' 32 32) h
      have hlow := congrArg (BitVec.extractLsb' 0 32) h
      rw [BitVec.extractLsb'_append_eq_left, BitVec.extractLsb'_append_eq_left] at hhigh
      rw [BitVec.extractLsb'_append_eq_right, BitVec.extractLsb'_append_eq_right] at hlow
      exact ⟨hlow, hhigh⟩
    · rintro ⟨hlow, hhigh⟩
      rw [hlow, hhigh]

theorem Instr.swapWidthOk_imm64_iff {i : Instr} (hc : i.wide = false → i.cont = 0#32) :
    swapWidthOk i.imm64 = true ↔
      (i.fields.imm = 16#32 ∨ i.fields.imm = 32#32 ∨ i.fields.imm = 64#32) ∧ i.cont = 0#32 := by
  have h16 := Instr.imm64_eq_iff hc (n := 16#32) rfl
  have h32 := Instr.imm64_eq_iff hc (n := 32#32) rfl
  have h64 := Instr.imm64_eq_iff hc (n := 64#32) rfl
  calc swapWidthOk i.imm64 = true
      ↔ i.imm64 = (16#32).signExtend 64 ∨ i.imm64 = (32#32).signExtend 64 ∨ i.imm64 = (64#32).signExtend 64 := by
        simp [swapWidthOk, or_assoc]
    _ ↔ _ := by rw [h16, h32, h64, or_and_right, or_and_right]

/-! ## The checking half -/

/-- The checks of R117 (b) to (d), said of the instruction's parts. -/
theorem Instr.unsupported_eq_false_iff {hs : List HelperId} {i : Instr} (hc : i.wide = false → i.cont = 0#32) :
    i.unsupported hs = false ↔
      i.supported = true ∧ i.widthWf = true ∧ (i.format = .call → i.fields.imm ∈ hs) := by
  have hswap := Instr.swapWidthOk_imm64_iff hc
  cases hf : i.format
  case swap =>
    rw [Instr.widthWf_of_swap hf, ← hswap]
    simp [Instr.unsupported, Instr.supported, hf]
  all_goals simp [Instr.unsupported, Instr.supported, Instr.widthWf, hf]

/-- The checking half accepts the well-formed supported instructions whose helper, if they call one, is known. -/
theorem Instr.rejection_eq_none_iff {hs : List HelperId} {i : Instr} (hc : i.wide = false → i.cont = 0#32) :
    i.rejection hs = none ↔
      i.wf = true ∧ i.supported = true ∧ (i.format = .call → i.fields.imm ∈ hs) := by
  have hregs : i.fields.wf = true ↔ ¬(10 < i.fields.dst.toNat ∨ 10 < i.fields.src.toNat) := by
    simp [Fields.wf]
  calc i.rejection hs = none
      ↔ i.unsupported hs = false ∧ i.fields.wf = true := by
        rw [hregs, Instr.rejection]
        cases i.unsupported hs <;> simp
    _ ↔ _ := by
        rw [Instr.unsupported_eq_false_iff hc, Instr.wf, Bool.and_eq_true]
        tauto

theorem decode_of_readInstr {o : ByteOrder} {hs : List HelperId} {bytes : List Byte} {i : Instr}
    (h : readInstr o bytes = .instr i) (hr : i.rejection hs = none) : decode o hs bytes = .instr i := by
  simp [decode, h, hr]

/-! ## The reading half on an encoding -/

theorem namedOrUnsupported_opcode (i : Instr) : namedOrUnsupported i.opcode i.fields i.cont = .instr i := by
  simp [namedOrUnsupported, named_opcode]

theorem encode_of_narrow (o : ByteOrder) {i : Instr} (hw : i.wide = false) :
    encode o i = encodeWord o i.opcode i.fields := by
  simp [encode, hw]

theorem encode_of_wide (o : ByteOrder) {i : Instr} (hw : i.wide = true) :
    encode o i = encodeWord o i.opcode i.fields ++ encodeCont o i.cont := by
  simp [encode, hw]

theorem readInstr_encode (o : ByteOrder) {i : Instr} (rest : List Byte) (hc : i.wide = false → i.cont = 0#32) :
    readInstr o (encode o i ++ rest) = .instr i := by
  obtain ⟨b2, b3, b4, b5, b6, b7, hword, hfields⟩ := encodeWord_bytes o i.opcode i.fields
  have hread := namedOrUnsupported_opcode i
  cases hw : i.wide with
  | false =>
    rw [hc hw] at hread
    simp [encode_of_narrow o hw, hword, readInstr, hfields, wideWord_opcode, hw, hread]
  | true =>
    obtain ⟨c4, c5, c6, c7, hbytes⟩ := exists_four (length_split o 4 i.cont.toNat)
    have hcont := ofNat_compose_split4 o i.cont
    rw [hbytes] at hcont
    simp [encode_of_wide o hw, hword, encodeCont, hbytes, readInstr, hfields, wideWord_opcode, hw, hcont, hread]

/-! ## Encoding what was read -/

theorem cont_eq_zero_of_readInstr {o : ByteOrder} {bytes : List Byte} {i : Instr} (h : readInstr o bytes = .instr i)
    (hw : i.wide = false) : i.cont = 0#32 := by
  obtain ⟨-, -, -, -, -, -, -, -, -, -, -, -, ⟨-, hc⟩ | ⟨hw', -⟩⟩ := of_readInstr h
  · exact hc
  · rw [hw] at hw'
    cases hw'

theorem encode_of_readInstr {o : ByteOrder} {bytes : List Byte} {i : Instr} (h : readInstr o bytes = .instr i) :
    encode o i = bytes.take (8 * i.len) := by
  obtain ⟨b0, b1, b2, b3, b4, b5, b6, b7, rest, rfl, hop, hfields, hcont⟩ := of_readInstr h
  have hword : encodeWord o i.opcode i.fields = [b0, b1, b2, b3, b4, b5, b6, b7] := by
    rw [hop, hfields, encodeWord_ofBytes]
  rcases hcont with ⟨hw, -⟩ | ⟨hw, c4, c5, c6, c7, more, rfl, hc⟩
  · simp [encode_of_narrow o hw, hword, Instr.len, hw]
  · have hbytes : split o 4 i.cont.toNat = [c4, c5, c6, c7] := by rw [hc, split_ofNat_compose4]
    simp [encode_of_wide o hw, hword, encodeCont, hbytes, Instr.len, hw]

end Sys2Proof
end

section
/-! PROOFS of the statements about the encoding (30_encoding.md). -/

namespace Sys2Proof.Proofs

open Sys2Proof.Machine Sys2Proof.Claims

/-- Settles O10: the reading half gives the instruction back, and the checking half accepts it. -/
theorem decodeOfEncode : Obligations.DecodeOfEncode := by
  refine ⟨fun o i rest hc => readInstr_encode o rest hc, fun o hs i rest hwf hsup hcall => ?_⟩
  have hwidth : i.widthWf = true := (Bool.and_eq_true_iff.1 hwf).2
  have hc : i.wide = false → i.cont = 0#32 := Instr.cont_eq_zero_of_widthWf hwidth
  exact decode_of_readInstr (readInstr_encode o rest hc) ((Instr.rejection_eq_none_iff hc).2 ⟨hwf, hsup, hcall⟩)

/-- Settles O11, from what each half of the decoder says of its answer. -/
theorem encodeOfDecode : Obligations.EncodeOfDecode := by
  intro o hs bytes i h
  obtain ⟨hread, hr⟩ := of_decode h
  exact ⟨encode_of_readInstr hread, (Instr.rejection_eq_none_iff (cont_eq_zero_of_readInstr hread)).1 hr⟩

/-- Settles O2: what an opcode byte names has that byte as its opcode, so both parts are about instructions' opcodes. -/
theorem opcodeMapHas120Names : Obligations.OpcodeMapHas120Names := by
  refine ⟨rfl, isSome_named_iff, fun b f c i h => ?_⟩
  obtain ⟨rfl, -⟩ := of_named h
  exact Instr.supported_eq_false_iff i

/-- Settles O4. -/
theorem offsetAndImmediateFields : Obligations.OffsetAndImmediateFields := by
  intro b1 b2 b3 b4 b5 b6 b7
  refine ⟨?_, ?_, ?_, ?_, fun o => ⟨BitVec.le_toInt _, Int.le_sub_one_of_lt BitVec.toInt_lt, BitVec.le_toInt _,
    Int.le_sub_one_of_lt BitVec.toInt_lt⟩, rfl, rfl, rfl, rfl⟩
  · simp [toInt_off_ofBytes, compose_le_two]
  · simp [toInt_off_ofBytes, compose_be_two]
  · simp [toInt_imm_ofBytes, compose_le_four]
  · simp [toInt_imm_ofBytes, compose_be_four]

/-- Settles O3. -/
theorem nibblesFlipWithByteOrder : Obligations.NibblesFlipWithByteOrder := by
  refine ⟨fun b => ?_, fun _ => ⟨rfl, rfl⟩, rfl, rfl, rfl, rfl, fun s r => ?_⟩
  · have hlow := toNat_extractLsb'_low b
    have hhigh := toNat_extractLsb'_high b
    exact ⟨hlow, hhigh, hhigh, hlow⟩
  · refine ⟨s.reg?_of_lt, fun h => not_le.1 fun hle => ?_⟩
    rw [s.reg?_of_le hle] at h
    cases h

end Sys2Proof.Proofs
end

section
/-! SUPPORT. The bytes of PROG from `8*pc` on, as the statements name them, and what each half of the decoder answers on
them (40_decoder.md R111 to R119). -/

namespace Sys2Proof

/-! ## The two halves of the decoder -/

theorem readInstr_narrow (o : ByteOrder) (b0 b1 b2 b3 b4 b5 b6 b7 : Byte) (rest : List Byte)
    (hw : wideWord b0 (Fields.ofBytes o b1 b2 b3 b4 b5 b6 b7).imm = false) :
    readInstr o (b0 :: b1 :: b2 :: b3 :: b4 :: b5 :: b6 :: b7 :: rest) =
      namedOrUnsupported b0 (Fields.ofBytes o b1 b2 b3 b4 b5 b6 b7) 0#32 := by
  simp [readInstr, hw]

theorem readInstr_wide (o : ByteOrder) (b0 b1 b2 b3 b4 b5 b6 b7 c0 c1 c2 c3 c4 c5 c6 c7 : Byte) (more : List Byte)
    (hw : wideWord b0 (Fields.ofBytes o b1 b2 b3 b4 b5 b6 b7).imm = true) :
    readInstr o (b0 :: b1 :: b2 :: b3 :: b4 :: b5 :: b6 :: b7 :: c0 :: c1 :: c2 :: c3 :: c4 :: c5 :: c6 :: c7 :: more) =
      if c0 = 0#8 ∧ c1 = 0#8 ∧ c2 = 0#8 ∧ c3 = 0#8 then
        namedOrUnsupported b0 (Fields.ofBytes o b1 b2 b3 b4 b5 b6 b7) (BitVec.ofNat 32 (compose o [c4, c5, c6, c7]))
      else .fault .decodeFault := by
  simp [readInstr, hw]

theorem readInstr_wide_truncated (o : ByteOrder) (b0 b1 b2 b3 b4 b5 b6 b7 : Byte) {rest : List Byte}
    (hw : wideWord b0 (Fields.ofBytes o b1 b2 b3 b4 b5 b6 b7).imm = true) (hlen : rest.length < 8) :
    readInstr o (b0 :: b1 :: b2 :: b3 :: b4 :: b5 :: b6 :: b7 :: rest) = .fault .decodeFault := by
  simp only [readInstr, hw, if_true]
  split
  · simp only [List.length_cons] at hlen
    omega
  · rfl

theorem readInstr_truncated (o : ByteOrder) {bytes : List Byte} (hlen : bytes.length < 8) :
    readInstr o bytes = .fault .decodeFault := by
  unfold readInstr
  split
  · simp only [List.length_cons] at hlen
    omega
  · rfl

theorem namedOrUnsupported_of_some {b : Byte} {f : Fields} {c : BitVec 32} {i : Instr} (h : named b f c = some i) :
    namedOrUnsupported b f c = .instr i := by
  simp [namedOrUnsupported, h]

theorem namedOrUnsupported_of_none {b : Byte} {f : Fields} {c : BitVec 32} (h : named b f c = none) :
    namedOrUnsupported b f c = .fault .unsupportedOpcode := by
  simp [namedOrUnsupported, h]

theorem Instr.rejection_of_unsupported {hs : List HelperId} {i : Instr} (h : i.unsupported hs = true) :
    i.rejection hs = some .unsupportedOpcode := by
  simp [Instr.rejection, h]

theorem Instr.rejection_of_register {hs : List HelperId} {i : Instr} (h : i.unsupported hs = false)
    (hr : 10 < i.fields.dst.toNat ∨ 10 < i.fields.src.toNat) : i.rejection hs = some .invalidRegister := by
  simp [Instr.rejection, h, hr]

theorem Instr.rejection_of_operation {hs : List HelperId} {i : Instr} (h : i.unsupported hs = false)
    (hd : i.fields.dst.toNat ≤ 10) (hr : i.fields.src.toNat ≤ 10) : i.rejection hs = none := by
  simp [Instr.rejection, h, hd, hr]

/-- The checks of R117 and R118 do not raise DecodeFault. -/
theorem Instr.rejection_ne_decodeFault (hs : List HelperId) (i : Instr) : i.rejection hs ≠ some .decodeFault := by
  unfold Instr.rejection
  split
  · simp
  · split <;> simp

theorem decode_of_readInstr_fault {o : ByteOrder} (hs : List HelperId) {bytes : List Byte} {k : FaultKind}
    (h : readInstr o bytes = .fault k) : decode o hs bytes = .fault k := by
  simp [decode, h]

theorem decode_of_rejection {o : ByteOrder} {hs : List HelperId} {bytes : List Byte} {i : Instr} {k : FaultKind}
    (h : readInstr o bytes = .instr i) (hr : i.rejection hs = some k) : decode o hs bytes = .fault k := by
  simp [decode, h, hr]

/-! ## Formats and opcodes -/

theorem Instr.format_swap_iff (i : Instr) : i.format = .swap ↔ i.opcode = 0xd4#8 ∨ i.opcode = 0xdc#8 := by
  have h : decide (i.format = .swap) = decide (i.opcode = 0xd4#8 ∨ i.opcode = 0xdc#8) := by cases i <;> rfl
  exact decide_eq_decide.1 h

theorem Instr.format_call_iff (i : Instr) : i.format = .call ↔ i.opcode = 0x85#8 := by
  have h : decide (i.format = .call) = decide (i.opcode = 0x85#8) := by cases i <;> rfl
  exact decide_eq_decide.1 h

theorem Instr.widthWf_of_not_swap {i : Instr} (h : i.format ≠ .swap) : i.widthWf = true := by
  unfold Instr.widthWf
  split
  next hswap => exact absurd hswap h
  all_goals rfl

/-! ## The recorded bytes -/

theorem rawOf_wide (o : ByteOrder) (b0 b1 b2 b3 b4 b5 b6 b7 : Byte) (rest : List Byte)
    (hw : wideWord b0 (Fields.ofBytes o b1 b2 b3 b4 b5 b6 b7).imm = true) :
    rawOf o (b0 :: b1 :: b2 :: b3 :: b4 :: b5 :: b6 :: b7 :: rest) =
      (b0 :: b1 :: b2 :: b3 :: b4 :: b5 :: b6 :: b7 :: rest).take 16 := by
  simp only [rawOf, hw, if_true]

end Sys2Proof

namespace Sys2Proof.Claims

open Sys2Proof.Machine

variable {s : State} {i : Instr}

/-! ## The fetched bytes -/

theorem length_fetchBytes (hpc : 0 ≤ s.pc) : s.fetchBytes.length = min 16 (s.prog.length - 8 * s.pc.toNat) := by
  simp [State.fetchBytes, not_lt.2 hpc]

theorem eight_le_length_fetchBytes_iff : 8 ≤ s.fetchBytes.length ↔ ¬FirstWordMissing s := by
  by_cases hpc : s.pc < 0
  · simp [State.fetchBytes, FirstWordMissing, hpc]
  · rw [length_fetchBytes (not_lt.1 hpc)]
    unfold FirstWordMissing
    omega

/-- At most 16 bytes are fetched, so that a whole continuation word is the rest of them. -/
theorem length_fetchBytes_eq_sixteen_iff (hfirst : ¬FirstWordMissing s) :
    s.fetchBytes.length = 16 ↔ ¬ContinuationMissing s := by
  unfold FirstWordMissing at hfirst
  unfold ContinuationMissing
  rw [length_fetchBytes (by omega)]
  omega

theorem fetchBytes_eq_map (s : State) : s.fetchBytes = (List.range s.fetchBytes.length).map (progByte s) := by
  by_cases hpc : s.pc < 0
  · simp [State.fetchBytes, hpc]
  · refine List.ext_getElem (by simp) fun k hk _ => ?_
    simp only [State.fetchBytes, hpc, if_false, List.length_take, List.length_drop] at hk
    have hk : 8 * s.pc.toNat + k < s.prog.length := by omega
    simp [State.fetchBytes, hpc, progByte, hk]

/-- A whole first word at `pc` is the bytes 0 to 7 from there; what follows it is the rest of the fetched bytes. -/
theorem fetchBytes_of_firstWord (h : ¬FirstWordMissing s) :
    s.fetchBytes = progByte s 0 :: progByte s 1 :: progByte s 2 :: progByte s 3 :: progByte s 4 :: progByte s 5 ::
      progByte s 6 :: progByte s 7 :: (List.range (s.fetchBytes.length - 8)).map fun k => progByte s (8 + k) := by
  obtain ⟨m, hm⟩ := Nat.exists_eq_add_of_le (eight_le_length_fetchBytes_iff.2 h)
  conv_lhs => rw [fetchBytes_eq_map, hm, List.range_add, List.map_append, List.map_map]
  rw [hm, Nat.add_sub_cancel_left]
  rfl

/-! ## The fields of the first word at pc -/

/-- `compose` of the bytes `b 0` to `b (n - 1)`. -/
theorem compose_map_range (o : ByteOrder) (n : Nat) (b : Nat → Byte) :
    compose o ((List.range n).map b) = valueOf o n b := by
  have h := compose_eq_valueOf o ((List.range n).map b) (b := b) fun k hk => by
    simp [List.getElem?_range (by simpa using hk : k < n)]
  simpa using h

/-- The fields of the first word at `pc` (40_decoder.md R112). -/
def fieldsAt (s : State) : Fields :=
  Fields.ofBytes s.byteOrder (progByte s 1) (progByte s 2) (progByte s 3) (progByte s 4) (progByte s 5) (progByte s 6)
    (progByte s 7)

@[simp] theorem fieldsAt_imm (s : State) : (fieldsAt s).imm = immAt s :=
  congrArg (BitVec.ofNat 32) (compose_map_range s.byteOrder 4 fun k => progByte s (4 + k))

theorem ofNat_compose_cont (s : State) : BitVec.ofNat 32 (compose s.byteOrder
    [progByte s 12, progByte s 13, progByte s 14, progByte s 15]) = contAt s :=
  congrArg (BitVec.ofNat 32) (compose_map_range s.byteOrder 4 fun k => progByte s (12 + k))

theorem toNat_immAt (s : State) : (immAt s).toNat = valueOf s.byteOrder 4 fun k => progByte s (4 + k) := by
  rw [immAt, BitVec.toNat_ofNat]
  exact Nat.mod_eq_of_lt (valueOf_lt _ 4 _)

theorem toNat_contAt (s : State) : (contAt s).toNat = valueOf s.byteOrder 4 fun k => progByte s (12 + k) := by
  rw [contAt, BitVec.toNat_ofNat]
  exact Nat.mod_eq_of_lt (valueOf_lt _ 4 _)

theorem nibblesAt_eq (s : State) : nibblesAt s = ((fieldsAt s).dst.toNat, (fieldsAt s).src.toNat) := by
  have hlow := toNat_extractLsb'_low (progByte s 1)
  have hhigh := toNat_extractLsb'_high (progByte s 1)
  unfold nibblesAt fieldsAt
  cases s.byteOrder
  · exact Prod.ext hlow.symm hhigh.symm
  · exact Prod.ext hhigh.symm hlow.symm

theorem wideWord_at_iff (s : State) : wideWord (progByte s 0) (immAt s) = true ↔ WideAt s := by
  simp [wideWord]

theorem not_continuationMalformed_iff : ¬ContinuationMalformed s ↔
    progByte s 8 = 0#8 ∧ progByte s 9 = 0#8 ∧ progByte s 10 = 0#8 ∧ progByte s 11 = 0#8 := by
  constructor
  · intro h
    have hzero : ∀ k < 4, progByte s (8 + k) = 0#8 := fun k hk => by
      by_contra hne
      exact h ⟨k, hk, hne⟩
    exact ⟨hzero 0 (by decide), hzero 1 (by decide), hzero 2 (by decide), hzero 3 (by decide)⟩
  · rintro ⟨h0, h1, h2, h3⟩ ⟨k, hk, hne⟩
    interval_cases k
    exacts [hne h0, hne h1, hne h2, hne h3]

/-! ## What is read at pc -/

/-- The three causes of DecodeFault (60_exceptions.md R341). -/
abbrev DecodeFaultAt (s : State) : Prop :=
  FirstWordMissing s ∨ (WideAt s ∧ ContinuationMissing s) ∨ (WideAt s ∧ ContinuationMalformed s)

/-- The continuation immediate of the instruction at `pc`, which is 0 where there is no continuation word. -/
def contFieldAt (s : State) : BitVec 32 := if WideAt s then contAt s else 0#32

theorem readInstr_at_narrow (hfirst : ¬FirstWordMissing s) (hw : ¬WideAt s) :
    readInstr s.byteOrder s.fetchBytes = namedOrUnsupported (progByte s 0) (fieldsAt s) 0#32 := by
  have hword : wideWord (progByte s 0) (fieldsAt s).imm = false := by
    rw [fieldsAt_imm, Bool.eq_false_iff, Ne, wideWord_at_iff]
    exact hw
  rw [fetchBytes_of_firstWord hfirst]
  exact readInstr_narrow s.byteOrder _ _ _ _ _ _ _ _ _ hword

theorem wideWord_fieldsAt (hw : WideAt s) : wideWord (progByte s 0) (fieldsAt s).imm = true := by
  rw [fieldsAt_imm, wideWord_at_iff]
  exact hw

theorem readInstr_at_truncated (hfirst : ¬FirstWordMissing s) (hw : WideAt s) (hmiss : ContinuationMissing s) :
    readInstr s.byteOrder s.fetchBytes = .fault .decodeFault := by
  have hlen : s.fetchBytes.length - 8 < 8 := by
    have hne : s.fetchBytes.length ≠ 16 := fun h => (length_fetchBytes_eq_sixteen_iff hfirst).1 h hmiss
    unfold FirstWordMissing at hfirst
    rw [length_fetchBytes (by omega)] at hne ⊢
    omega
  rw [fetchBytes_of_firstWord hfirst]
  exact readInstr_wide_truncated s.byteOrder _ _ _ _ _ _ _ _ (wideWord_fieldsAt hw) (by simpa using hlen)

theorem readInstr_at_wide (hfirst : ¬FirstWordMissing s) (hw : WideAt s) (hwhole : ¬ContinuationMissing s) :
    readInstr s.byteOrder s.fetchBytes =
      if ContinuationMalformed s then .fault .decodeFault
      else namedOrUnsupported (progByte s 0) (fieldsAt s) (contAt s) := by
  rw [fetchBytes_of_firstWord hfirst, (length_fetchBytes_eq_sixteen_iff hfirst).2 hwhole, ← ofNat_compose_cont]
  refine (readInstr_wide s.byteOrder _ _ _ _ _ _ _ _ _ _ _ _ _ _ _ _ [] (wideWord_fieldsAt hw)).trans ?_
  rw [← ite_not (ContinuationMalformed s)]
  exact if_congr not_continuationMalformed_iff.symm rfl rfl

theorem readInstr_at_of_fault (h : DecodeFaultAt s) : readInstr s.byteOrder s.fetchBytes = .fault .decodeFault := by
  by_cases hfirst : FirstWordMissing s
  · exact readInstr_truncated _ (not_le.1 fun hlen => eight_le_length_fetchBytes_iff.1 hlen hfirst)
  · rcases h with h | ⟨hw, hmiss⟩ | ⟨hw, hmal⟩
    · exact absurd h hfirst
    · exact readInstr_at_truncated hfirst hw hmiss
    · by_cases hmiss : ContinuationMissing s
      · exact readInstr_at_truncated hfirst hw hmiss
      · rw [readInstr_at_wide hfirst hw hmiss, if_pos hmal]

/-- Where no DecodeFault applies, the opcode byte at `pc` decides what is read. -/
theorem readInstr_at (h : ¬DecodeFaultAt s) :
    readInstr s.byteOrder s.fetchBytes = namedOrUnsupported (progByte s 0) (fieldsAt s) (contFieldAt s) := by
  have hfirst : ¬FirstWordMissing s := fun hf => h (.inl hf)
  by_cases hw : WideAt s
  · have hwhole : ¬ContinuationMissing s := fun hf => h (.inr (.inl ⟨hw, hf⟩))
    have hgood : ¬ContinuationMalformed s := fun hf => h (.inr (.inr ⟨hw, hf⟩))
    rw [readInstr_at_wide hfirst hw hwhole, if_neg hgood, contFieldAt, if_pos hw]
  · rw [readInstr_at_narrow hfirst hw, contFieldAt, if_neg hw]

/-- The instruction that the word at `pc` names has that word's parts. -/
theorem of_named_at (h : named (progByte s 0) (fieldsAt s) (contFieldAt s) = some i) :
    i.opcode = progByte s 0 ∧ i.fields = fieldsAt s ∧ (i.wide = true ↔ WideAt s) ∧ i.cont = contFieldAt s := by
  obtain ⟨hop, hfields, hcont⟩ := of_named h
  have hwide : i.wide = true ↔ WideAt s := by
    rw [← wideWord_opcode, hop, hfields, fieldsAt_imm, wideWord_at_iff]
  refine ⟨hop, hfields, hwide, ?_⟩
  rcases hcont with hc | ⟨hc, hnarrow⟩
  · exact hc
  · have hw : ¬WideAt s := fun hw => by simp [hwide.2 hw] at hnarrow
    rw [hc, contFieldAt, if_neg hw]

/-! ## What is decoded at pc -/

theorem fetchDecode_of_named_eq_none (h : ¬DecodeFaultAt s)
    (hn : named (progByte s 0) (fieldsAt s) (contFieldAt s) = none) : s.fetchDecode = .fault .unsupportedOpcode :=
  decode_of_readInstr_fault _ ((readInstr_at h).trans (namedOrUnsupported_of_none hn))

/-- The decoder raises DecodeFault in the three cases of 60_exceptions.md R341 and in no other. -/
theorem fetchDecode_eq_decodeFault_iff : s.fetchDecode = .fault .decodeFault ↔ DecodeFaultAt s := by
  refine ⟨fun h => ?_, fun h => decode_of_readInstr_fault _ (readInstr_at_of_fault h)⟩
  by_contra hok
  cases hn : named (progByte s 0) (fieldsAt s) (contFieldAt s) with
  | none => simp [fetchDecode_of_named_eq_none hok hn] at h
  | some i =>
    have hread := (readInstr_at hok).trans (namedOrUnsupported_of_some hn)
    cases hr : i.rejection s.helperIds with
    | none => simp [State.fetchDecode, decode_of_readInstr hread hr] at h
    | some k =>
      rw [State.fetchDecode, decode_of_rejection hread hr] at h
      cases h
      exact Instr.rejection_ne_decodeFault _ _ hr

theorem named_of_fetchDecode (h : s.fetchDecode = .instr i) :
    named (progByte s 0) (fieldsAt s) (contFieldAt s) = some i := by
  have hok : ¬DecodeFaultAt s := fun hf => by simp [fetchDecode_eq_decodeFault_iff.2 hf] at h
  cases hn : named (progByte s 0) (fieldsAt s) (contFieldAt s) with
  | none => simp [fetchDecode_of_named_eq_none hok hn] at h
  | some j =>
    have hread := (of_decode h).1
    rw [readInstr_at hok, namedOrUnsupported_of_some hn] at hread
    cases hread
    rfl

/-- A wide word's fault records what there is of its 16 bytes (60_exceptions.md R350). -/
theorem rawBytes_of_wide (hfirst : ¬FirstWordMissing s) (hw : WideAt s) :
    s.rawBytes = (s.prog.drop (8 * s.pc.toNat)).take 16 := by
  have hpc : ¬s.pc < 0 := fun hpc => hfirst (.inl hpc)
  have hraw : s.rawBytes = s.fetchBytes.take 16 := by
    rw [State.rawBytes, fetchBytes_of_firstWord hfirst]
    exact rawOf_wide s.byteOrder _ _ _ _ _ _ _ _ _ (wideWord_fieldsAt hw)
  rw [hraw, State.fetchBytes, if_neg hpc, List.take_take, min_self]

/-- The widths of a byte swap: 16 and 32 have no continuation word, so the one for 64 is all that can be wrong. -/
theorem swapWidth_at_iff (hswap : progByte s 0 = 0xd4#8 ∨ progByte s 0 = 0xdc#8) :
    (immAt s = 16#32 ∨ immAt s = 32#32 ∨ immAt s = 64#32) ∧ contFieldAt s = 0#32 ↔
      immAt s = 16#32 ∨ immAt s = 32#32 ∨ (immAt s = 64#32 ∧ contAt s = 0#32) := by
  have hlddw : progByte s 0 ≠ 0x18#8 := by rcases hswap with h | h <;> simp [h]
  have hcont : contFieldAt s = if 32 < (immAt s).toInt then contAt s else 0#32 := by
    simp [contFieldAt, WideAt, hlddw, hswap]
  have h16 : immAt s = 16#32 → contFieldAt s = 0#32 := fun h => by rw [hcont, h]; rfl
  have h32 : immAt s = 32#32 → contFieldAt s = 0#32 := fun h => by rw [hcont, h]; rfl
  have h64 : immAt s = 64#32 → contFieldAt s = contAt s := fun h => by rw [hcont, h]; rfl
  constructor
  · rintro ⟨h | h | h, hz⟩
    · exact .inl h
    · exact .inr (.inl h)
    · exact .inr (.inr ⟨h, h64 h ▸ hz⟩)
  · rintro (h | h | ⟨h, hz⟩)
    · exact ⟨.inl h, h16 h⟩
    · exact ⟨.inr (.inl h), h32 h⟩
    · exact ⟨.inr (.inr h), (h64 h).trans hz⟩

theorem widthWf_at_iff (h : named (progByte s 0) (fieldsAt s) (contFieldAt s) = some i) :
    i.widthWf = true ↔ (progByte s 0 = 0xd4#8 ∨ progByte s 0 = 0xdc#8 →
      immAt s = 16#32 ∨ immAt s = 32#32 ∨ (immAt s = 64#32 ∧ contAt s = 0#32)) := by
  obtain ⟨hop, hfields, -, hcont⟩ := of_named_at h
  have hformat := i.format_swap_iff
  rw [hop] at hformat
  by_cases hswap : progByte s 0 = 0xd4#8 ∨ progByte s 0 = 0xdc#8
  · rw [Instr.widthWf_of_swap (hformat.2 hswap), hfields, hcont, fieldsAt_imm, swapWidth_at_iff hswap]
    exact ⟨fun h _ => h, fun h => h hswap⟩
  · exact ⟨fun _ h => absurd h hswap, fun _ => Instr.widthWf_of_not_swap (mt hformat.1 hswap)⟩

/-- The four causes of R117, said of the word at `pc` and of the instruction that it names. -/
theorem noOperationAt_iff (h : named (progByte s 0) (fieldsAt s) (contFieldAt s) = some i) :
    NoOperationAt s ↔ i.unsupported s.helperIds = true := by
  obtain ⟨hop, hfields, hwide, hcont⟩ := of_named_at h
  have hnarrow : i.wide = false → i.cont = 0#32 := fun hw => by
    rw [hcont, contFieldAt, if_neg (by simp [← hwide, hw])]
  have hnamed : (progByte s 0).toNat ∈ namedOpcodes := hop ▸ i.opcode_mem_namedOpcodes
  have hsupported : i.supported = true ↔ (progByte s 0).toNat ∉ unsupportedOpcodes := by
    rw [← hop, ← Instr.supported_eq_false_iff, Bool.not_eq_false]
  have hcall : (i.format = .call → i.fields.imm ∈ s.helperIds) ↔
      (progByte s 0 = 0x85#8 → immAt s ∈ s.helperIds) := by
    rw [Instr.format_call_iff, hop, hfields, fieldsAt_imm]
  rw [← not_iff_not, Bool.not_eq_true, Instr.unsupported_eq_false_iff hnarrow, hsupported, widthWf_at_iff h, hcall]
  unfold NoOperationAt
  rw [not_or, not_or, not_or, not_not, and_iff_right hnamed, not_and_not_right, not_and_not_right]

end Sys2Proof.Claims
end

section
/-! PROOFS of the statements about the decoder (40_decoder.md). -/

namespace Sys2Proof.Proofs

open Sys2Proof.Machine Sys2Proof.Claims

/-- Settles O5. -/
theorem decodedFieldsComeFromTheFirstWord : Obligations.DecodedFieldsComeFromTheFirstWord := by
  intro o hs bytes i h
  obtain ⟨b0, b1, b2, b3, b4, b5, b6, b7, rest, hbytes, hop, hfields, -⟩ := of_readInstr (of_decode h).1
  have hlow := toNat_extractLsb'_low b1
  have hhigh := toNat_extractLsb'_high b1
  refine ⟨b0, b1, b2, b3, b4, b5, b6, b7, rest, hbytes, hop, ?_, ?_, ?_⟩
  · rw [hfields]
    cases o
    · exact Prod.ext hlow hhigh
    · exact Prod.ext hhigh hlow
  · rw [hfields, toInt_off_ofBytes, ← compose_map_range]
    rfl
  · rw [hfields, toInt_imm_ofBytes, ← compose_map_range]
    rfl

/-- Settles O6: a step records the decoder's fault with the bytes of the wide word. -/
theorem continuationWordRules : Obligations.ContinuationWordRules := by
  intro s hs hfirst hw
  have hstep (hf : DecodeFaultAt s) : step s = .next { s with
      status := .faulted, fault := some ⟨.decodeFault, s.pc, (s.prog.drop (8 * s.pc.toNat)).take 16⟩ } := by
    rw [step_fault hs (fetchDecode_eq_decodeFault_iff.2 hf), raise, State.takeFault, rawBytes_of_wide hfirst hw]
  refine ⟨fun hmiss => ?_, fun _ hmal => hstep (.inr (.inr ⟨hw, hmal⟩)), fun hwhole hgood => ?_⟩
  · have hlen : (s.prog.drop (8 * s.pc.toNat)).length ≤ 16 := by
      rw [List.length_drop]
      unfold ContinuationMissing at hmiss
      omega
    rw [hstep (.inr (.inl ⟨hw, hmiss⟩)), List.take_of_length_le hlen]
  · rw [Ne, fetchDecode_eq_decodeFault_iff]
    rintro (h | ⟨-, h⟩ | ⟨-, h⟩)
    exacts [hfirst h, hwhole h, hgood h]

/-- Settles O7, from the parts that the instruction takes from the word at `pc`. -/
theorem recordImmediateAndLength : Obligations.RecordImmediateAndLength := by
  intro s i h
  obtain ⟨-, hfields, hwide, hcont⟩ := of_named_at (named_of_fetchDecode h)
  refine ⟨fun hw => ?_, fun hw => ?_⟩
  · have hi : i.wide = true := hwide.2 hw
    refine ⟨?_, by simp [Instr.len, hi]⟩
    rw [Instr.imm64, if_pos hi, hcont, contFieldAt, if_pos hw, hfields, fieldsAt_imm, BitVec.toNat_append,
      ← Nat.shiftLeft_add_eq_or_of_lt (immAt s).isLt, Nat.shiftLeft_eq, toNat_contAt, toNat_immAt]
  · have hi : i.wide = false := by simpa [← hwide] using hw
    refine ⟨?_, by simp [Instr.len, hi]⟩
    rw [Instr.imm64, hi, hfields, fieldsAt_imm]
    rfl

/-- Settles O9: a word without a name, a named one without an operation, one with a bad register, and the rest. -/
theorem decoderChecksInOrder : Obligations.DecoderChecksInOrder := by
  intro s hok
  rw [nibblesAt_eq]
  cases hn : named (progByte s 0) (fieldsAt s) (contFieldAt s) with
  | none =>
    have hfault := fetchDecode_of_named_eq_none hok hn
    have hno : NoOperationAt s := .inl fun hmem => by
      simpa [hn] using (isSome_named_iff _ (fieldsAt s) (contFieldAt s)).2 hmem
    exact ⟨fun _ => hfault, fun h => absurd hno h, fun h => absurd hno h⟩
  | some i =>
    obtain ⟨hop, hfields, -⟩ := of_named_at hn
    have hread := (readInstr_at hok).trans (namedOrUnsupported_of_some hn)
    rw [noOperationAt_iff hn, Bool.not_eq_true, ← hfields]
    exact ⟨fun hno => decode_of_rejection hread (Instr.rejection_of_unsupported hno),
      fun hun hr => decode_of_rejection hread (Instr.rejection_of_register hun hr),
      fun hun hd hr => ⟨i, decode_of_readInstr hread (Instr.rejection_of_operation hun hd hr), hop⟩⟩

/-- Settles O1. -/
theorem specWordsDecode : Obligations.SpecWordsDecode := by
  unfold Obligations.SpecWordsDecode
  decide

end Sys2Proof.Proofs
end

section
/-! SUPPORT. The ALU operations over `Nat` and `Int` (41_alu64.md R131 to R133), at either width. -/

namespace Sys2Proof.Machine

variable {w : Nat}

/-! ## Arithmetic (R131) -/

/-- The bit pattern of an integer is already modulo the word size, so wrapping (D26) adds nothing to it. -/
theorem ofInt_emod_two_pow (w : Nat) (i : Int) : BitVec.ofInt w (i % 2 ^ w) = BitVec.ofInt w i := by
  apply BitVec.eq_of_toNat_eq
  simp [BitVec.toNat_ofInt]

theorem aluAdd_eq (d v : BitVec w) : aluAdd d v = BitVec.ofNat w ((d.toNat + v.toNat) % 2 ^ w) := by
  apply BitVec.eq_of_toNat_eq
  simp [aluAdd]

theorem aluSub_eq (d v : BitVec w) : aluSub d v = BitVec.ofInt w (((d.toNat : Int) - v.toNat) % 2 ^ w) := by
  rw [ofInt_emod_two_pow, Int.sub_eq_add_neg, BitVec.ofInt_add, BitVec.ofInt_neg]
  simp [aluSub, BitVec.sub_eq_add_neg]

theorem aluMul_eq (d v : BitVec w) : aluMul d v = BitVec.ofNat w (d.toNat * v.toNat % 2 ^ w) := by
  apply BitVec.eq_of_toNat_eq
  simp [aluMul]

theorem aluNeg_eq (d : BitVec w) : aluNeg d = BitVec.ofInt w ((0 - (d.toNat : Int)) % 2 ^ w) := by
  simpa [aluNeg, aluSub] using aluSub_eq 0#w d

/-! ## Division (R132) -/

theorem aluDiv_eq (d v : BitVec w) :
    aluDiv d v = if v.toNat = 0 then 0#w else BitVec.ofNat w (d.toNat / v.toNat) :=
  if_congr (BitVec.toNat_eq (y := 0#w)) rfl BitVec.udiv_def

theorem aluMod_eq (d v : BitVec w) :
    aluMod d v = if v.toNat = 0 then 0#w else BitVec.ofNat w (d.toNat % v.toNat) :=
  if_congr (BitVec.toNat_eq (y := 0#w)) rfl BitVec.umod_def

/-! ## Bitwise operations -/

theorem aluOr_eq (d v : BitVec w) : aluOr d v = BitVec.ofFnLE fun i : Fin w => d.getLsbD i || v.getLsbD i := by
  apply BitVec.eq_of_getElem_eq
  simp +contextual [aluOr]

theorem aluAnd_eq (d v : BitVec w) : aluAnd d v = BitVec.ofFnLE fun i : Fin w => d.getLsbD i && v.getLsbD i := by
  apply BitVec.eq_of_getElem_eq
  simp +contextual [aluAnd]

theorem aluXor_eq (d v : BitVec w) : aluXor d v = BitVec.ofFnLE fun i : Fin w => xor (d.getLsbD i) (v.getLsbD i) := by
  apply BitVec.eq_of_getElem_eq
  simp +contextual [aluXor]

/-! ## Shifts (R133) -/

theorem aluLsh_eq (d v : BitVec w) : aluLsh d v = BitVec.ofNat w (d.toNat * 2 ^ (v.toNat % w) % 2 ^ w) := by
  apply BitVec.eq_of_toNat_eq
  simp [aluLsh, shiftAmount, Nat.shiftLeft_eq]

theorem aluRsh_eq (d v : BitVec w) : aluRsh d v = BitVec.ofNat w (d.toNat / 2 ^ (v.toNat % w)) := by
  apply BitVec.eq_of_toNat_eq
  have hlt : d.toNat / 2 ^ (v.toNat % w) < 2 ^ w := (Nat.div_le_self _ _).trans_lt d.isLt
  simp [aluRsh, shiftAmount, Nat.shiftRight_eq_div_pow, Nat.mod_eq_of_lt hlt]

theorem aluArsh_eq (d v : BitVec w) : aluArsh d v = BitVec.ofInt w (d.toInt / 2 ^ (v.toNat % w)) := by
  simp [aluArsh, BitVec.sshiftRight, shiftAmount, Int.shiftRight_eq_div_pow]

/-! ## Shapes, in a state of which nothing is known -/

/-- Reading a register before writing it adds no fault: the write makes the same check. -/
theorem withReg_writeDst (s : State) (i : RegId) (g : Word → Word) (n : Int) :
    (withReg s i fun d => writeDst s i (g d) n) = writeDst s i (g (s.reg i)) n := by
  by_cases h : i.toNat ≤ 10
  · exact withReg_valid s h _
  · rw [withReg_invalid s (not_le.1 h), writeDst_invalid s (not_le.1 h)]

theorem withReg_raise_invalidRegister (s : State) (i : RegId) :
    (withReg s i fun _ => raise s .invalidRegister) = raise s .invalidRegister := by
  by_cases h : i.toNat ≤ 10
  · exact withReg_valid s h _
  · exact withReg_invalid s (not_le.1 h) _

theorem alu64K_eq (op : Word → Word → Word) (f : Fields) (s : State) :
    alu64K op f s = writeDst s f.dst (op (s.reg f.dst) (immOperand f)) 1 :=
  withReg_writeDst s f.dst (fun d => op d (immOperand f)) 1

theorem alu64X_eq (op : Word → Word → Word) (f : Fields) (s : State) :
    alu64X op f s = withReg s f.src fun v => writeDst s f.dst (op (s.reg f.dst) v) 1 := by
  unfold alu64X
  by_cases h : f.src.toNat ≤ 10
  · simp only [withReg_valid s h]
    exact withReg_writeDst s f.dst (fun d => op d (s.reg f.src)) 1
  · simp only [withReg_invalid s (not_le.1 h)]
    exact withReg_raise_invalidRegister s f.dst

end Sys2Proof.Machine

namespace Sys2Proof.Claims

open Sys2Proof.Machine

/-! ## From the shapes to the statements' words -/

theorem writesDst_of_exec {i : Instr} {s : State} {v : Word} {n : Int}
    (h : exec i s = writeDst s i.fields.dst v n) : WritesDst i s v n :=
  ⟨fun hd => h.trans (writeDst_low s hd v n), fun hd => h.trans (writeDst_frame s hd v n),
    fun hd => h.trans (writeDst_invalid s hd v n)⟩

section
variable {k x : Fields → Instr} {op : Word → Word → Word}

theorem alu64_of_writeDst (hfields : ∀ f, (k f).fields = f ∧ (x f).fields = f)
    (hk : ∀ f s, exec (k f) s = writeDst s f.dst (op (s.reg f.dst) (immOperand f)) 1)
    (hx : ∀ f s, exec (x f) s = withReg s f.src fun v => writeDst s f.dst (op (s.reg f.dst) v) 1) :
    Alu64 k x op := by
  intro f s
  obtain ⟨hkf, hxf⟩ := hfields f
  refine ⟨?_, fun hr => ?_, fun hr => ?_⟩
  · apply writesDst_of_exec
    rw [hkf]
    exact hk f s
  · apply writesDst_of_exec
    rw [hxf]
    exact (hx f s).trans (withReg_valid s hr _)
  · exact (hx f s).trans (withReg_invalid s hr _)

/-- Two instructions of the ALU64 shapes are an operation of R130, whatever function equals what they compute. -/
theorem alu64_of_shapes {op' : Word → Word → Word} (hop : ∀ d v, op d v = op' d v)
    (hfields : ∀ f, (k f).fields = f ∧ (x f).fields = f)
    (hexec : ∀ f s, exec (k f) s = alu64K op f s ∧ exec (x f) s = alu64X op f s) : Alu64 k x op' := by
  obtain rfl : op = op' := funext₂ hop
  exact alu64_of_writeDst hfields (fun f s => (hexec f s).1.trans (alu64K_eq op f s))
    fun f s => (hexec f s).2.trans (alu64X_eq op f s)

end

end Sys2Proof.Claims
end

section
/-! PROOFS of the statements about the 64-bit ALU instructions (41_alu64.md). -/

namespace Sys2Proof.Proofs

open Sys2Proof.Machine Sys2Proof.Claims

/-- Settles O35. -/
theorem alu64Arithmetic : Obligations.Alu64Arithmetic := by
  refine ⟨alu64_of_shapes aluAdd_eq (fun _ => ⟨rfl, rfl⟩) fun _ _ => ⟨rfl, rfl⟩,
    alu64_of_shapes aluSub_eq (fun _ => ⟨rfl, rfl⟩) fun _ _ => ⟨rfl, rfl⟩,
    alu64_of_shapes aluMul_eq (fun _ => ⟨rfl, rfl⟩) fun _ _ => ⟨rfl, rfl⟩, fun f s => ?_⟩
  simp only [← aluNeg_eq]
  exact writesDst_of_exec (withReg_writeDst s f.dst aluNeg 1)

/-- Settles O36. -/
theorem alu64Division : Obligations.Alu64Division :=
  ⟨alu64_of_shapes aluDiv_eq (fun _ => ⟨rfl, rfl⟩) fun _ _ => ⟨rfl, rfl⟩,
    alu64_of_shapes aluMod_eq (fun _ => ⟨rfl, rfl⟩) fun _ _ => ⟨rfl, rfl⟩⟩

/-- Settles O37: `mov64` reads no old value of its destination, so it has a shape of its own. -/
theorem alu64BitwiseAndMove : Obligations.Alu64BitwiseAndMove :=
  ⟨alu64_of_shapes aluOr_eq (fun _ => ⟨rfl, rfl⟩) fun _ _ => ⟨rfl, rfl⟩,
    alu64_of_shapes aluAnd_eq (fun _ => ⟨rfl, rfl⟩) fun _ _ => ⟨rfl, rfl⟩,
    alu64_of_shapes aluXor_eq (fun _ => ⟨rfl, rfl⟩) fun _ _ => ⟨rfl, rfl⟩,
    alu64_of_writeDst (fun _ => ⟨rfl, rfl⟩) (fun _ _ => rfl) fun _ _ => rfl⟩

/-- Settles O38. -/
theorem alu64Shifts : Obligations.Alu64Shifts :=
  ⟨alu64_of_shapes aluLsh_eq (fun _ => ⟨rfl, rfl⟩) fun _ _ => ⟨rfl, rfl⟩,
    alu64_of_shapes aluRsh_eq (fun _ => ⟨rfl, rfl⟩) fun _ _ => ⟨rfl, rfl⟩,
    alu64_of_shapes aluArsh_eq (fun _ => ⟨rfl, rfl⟩) fun _ _ => ⟨rfl, rfl⟩⟩

end Sys2Proof.Proofs
end

section
/-! SUPPORT. A 32-bit ALU operation as a 64-bit one on the low halves (42_alu32.md R170), so that the shapes of
41_alu64.md R130 serve both widths. -/

namespace Sys2Proof.Machine

/-- The 64-bit operation that a 32-bit one makes: low halves in, the result zero-extended. -/
def onLowHalves (op : BitVec 32 → BitVec 32 → BitVec 32) (d v : Word) : Word := (op (low32 d) (low32 v)).setWidth 64

/-- The low half of a sign-extended immediate is the immediate. -/
theorem low32_immOperand (f : Fields) : low32 (immOperand f) = f.imm := by
  apply BitVec.eq_of_getElem_eq
  intro i hi
  simp [low32, immOperand, BitVec.getElem_signExtend, hi, show i < 64 by omega]

theorem alu32K_eq_alu64K (op : BitVec 32 → BitVec 32 → BitVec 32) (f : Fields) (s : State) :
    alu32K op f s = alu64K (onLowHalves op) f s := by
  simp only [alu32K, alu64K, onLowHalves, low32_immOperand]

theorem alu32X_eq_alu64X (op : BitVec 32 → BitVec 32 → BitVec 32) (f : Fields) (s : State) :
    alu32X op f s = alu64X (onLowHalves op) f s := rfl

end Sys2Proof.Machine

namespace Sys2Proof.Claims

open Sys2Proof.Machine

theorem low_eq_low32 (v : Word) : low v = low32 v := by
  apply BitVec.eq_of_toNat_eq
  simp [low, low32]

theorem sext_eq_immOperand (f : Fields) : sext f.imm = immOperand f := rfl

/-- The bit pattern of a residue modulo 2^32 is the zero-extended 32-bit pattern. -/
theorem ofInt_emod_eq_setWidth (i : Int) : BitVec.ofInt 64 (i % 2 ^ 32) = (BitVec.ofInt 32 i).setWidth 64 := by
  apply BitVec.eq_of_toNat_eq
  simp only [BitVec.toNat_ofInt, BitVec.toNat_setWidth]
  omega

section
variable {k x : Fields → Instr} {op : BitVec 32 → BitVec 32 → BitVec 32}

theorem alu32_of_alu64 (h : Alu64 k x (onLowHalves op)) : Alu32 k x op := by
  intro f s
  have hfs := h f s
  simp only [sext_eq_immOperand, onLowHalves, low32_immOperand] at hfs
  simpa only [low_eq_low32, BitVec.ofNat_toNat] using hfs

/-- Two instructions of the ALU32 shapes are an operation of R170, whatever function equals what they compute. -/
theorem alu32_of_shapes {op' : BitVec 32 → BitVec 32 → BitVec 32} (hop : ∀ d v, op d v = op' d v)
    (hfields : ∀ f, (k f).fields = f ∧ (x f).fields = f)
    (hexec : ∀ f s, exec (k f) s = alu32K op f s ∧ exec (x f) s = alu32X op f s) : Alu32 k x op' := by
  obtain rfl : op = op' := funext₂ hop
  exact alu32_of_alu64 (alu64_of_shapes (fun _ _ => rfl) hfields fun f s =>
    ⟨(hexec f s).1.trans (alu32K_eq_alu64K op f s), (hexec f s).2.trans (alu32X_eq_alu64X op f s)⟩)

end

end Sys2Proof.Claims
end

section
/-! PROOFS of the statements about the 32-bit ALU instructions (42_alu32.md R170 to R195). -/

namespace Sys2Proof.Proofs

open Sys2Proof.Machine Sys2Proof.Claims

/-- Settles O39. -/
theorem alu32Arithmetic : Obligations.Alu32Arithmetic := by
  refine ⟨alu32_of_shapes aluAdd_eq (fun _ => ⟨rfl, rfl⟩) fun _ _ => ⟨rfl, rfl⟩,
    alu32_of_shapes aluSub_eq (fun _ => ⟨rfl, rfl⟩) fun _ _ => ⟨rfl, rfl⟩,
    alu32_of_shapes aluMul_eq (fun _ => ⟨rfl, rfl⟩) fun _ _ => ⟨rfl, rfl⟩, fun f s => ?_⟩
  have hneg (d : Word) : BitVec.ofInt 64 ((0 - ((low d).toNat : Int)) % 2 ^ 32) = (aluNeg (low32 d)).setWidth 64 := by
    rw [ofInt_emod_eq_setWidth, ← ofInt_emod_two_pow, ← aluNeg_eq, low_eq_low32]
  simp only [hneg]
  exact writesDst_of_exec (withReg_writeDst s f.dst (fun d => (aluNeg (low32 d)).setWidth 64) 1)

/-- Settles O40. -/
theorem alu32Division : Obligations.Alu32Division :=
  ⟨alu32_of_shapes aluDiv_eq (fun _ => ⟨rfl, rfl⟩) fun _ _ => ⟨rfl, rfl⟩,
    alu32_of_shapes aluMod_eq (fun _ => ⟨rfl, rfl⟩) fun _ _ => ⟨rfl, rfl⟩⟩

/-- Settles O41: `mov32` reads no old value of its destination, so it has a shape of its own. -/
theorem alu32BitwiseAndMove : Obligations.Alu32BitwiseAndMove := by
  refine ⟨alu32_of_shapes aluOr_eq (fun _ => ⟨rfl, rfl⟩) fun _ _ => ⟨rfl, rfl⟩,
    alu32_of_shapes aluAnd_eq (fun _ => ⟨rfl, rfl⟩) fun _ _ => ⟨rfl, rfl⟩,
    alu32_of_shapes aluXor_eq (fun _ => ⟨rfl, rfl⟩) fun _ _ => ⟨rfl, rfl⟩,
    alu32_of_alu64 (alu64_of_writeDst (fun _ => ⟨rfl, rfl⟩) (fun f s => ?_) fun _ _ => rfl)⟩
  rw [onLowHalves, low32_immOperand]
  rfl

/-- Settles O42. -/
theorem alu32Shifts : Obligations.Alu32Shifts :=
  ⟨alu32_of_shapes aluLsh_eq (fun _ => ⟨rfl, rfl⟩) fun _ _ => ⟨rfl, rfl⟩,
    alu32_of_shapes aluRsh_eq (fun _ => ⟨rfl, rfl⟩) fun _ _ => ⟨rfl, rfl⟩,
    alu32_of_shapes aluArsh_eq (fun _ => ⟨rfl, rfl⟩) fun _ _ => ⟨rfl, rfl⟩⟩

end Sys2Proof.Proofs
end

section
/-! SUPPORT. A byte swap writes the integer whose bytes in BYTE_ORDER are the old ones in the target order
(42_alu32.md R196 (e)), and by 00_scope.md R8 that says which bytes a store puts down and what a second swap does. -/

namespace Sys2Proof.Claims

open Sys2Proof.Machine

/-! ## Reversing bytes -/

theorem compose_split_of_ne {o t : ByteOrder} (h : o ≠ t) (n v : Nat) :
    compose o (split t n v) = compose .be (split .le n v) := by
  cases o <;> cases t
  case le.be | be.le => rfl
  case le.le | be.be => exact absurd rfl h

theorem compose_be_split_le (n v : Nat) : compose .be (split .le n v) = reversed n v := by
  have hsum := compose_eq_valueOf .be (split .le n v) (b := byteOf .le n v) fun k hk =>
    getElem?_split .le v (by simpa using hk)
  rw [hsum, length_split]
  simp [valueOf, byteOf, weight, reversed]

/-- Converting to the order in use truncates, converting to the other reverses the bytes (R196 (e)). -/
theorem compose_split_eq_ite (o t : ByteOrder) (n v : Nat) :
    compose o (split t n v) = if o = t then v % 256 ^ n else reversed n v := by
  split
  next h => rw [h, compose_split]
  next h =>
    rw [compose_split_of_ne h, compose_be_split_le]

theorem compose_split_lt (o t : ByteOrder) (n v : Nat) : compose o (split t n v) < 256 ^ n := by
  simpa using compose_lt o (split t n v)

theorem toNat_ofNat_compose_split (o t : ByteOrder) {n : Nat} (hn : n ≤ 8) (v : Nat) :
    (BitVec.ofNat 64 (compose o (split t n v))).toNat = compose o (split t n v) := by
  rw [BitVec.toNat_ofNat]
  exact Nat.mod_eq_of_lt ((compose_split_lt o t n v).trans_le (Nat.pow_le_pow_right (by decide) hn))

/-- In the order in use the converted value has the bytes of the old one in the target order. -/
theorem split_compose_split (o t : ByteOrder) (n v : Nat) : split o n (compose o (split t n v)) = split t n v := by
  simpa using split_compose o (split t n v)

theorem byteOf_compose_split (o t : ByteOrder) {n k : Nat} (v : Nat) (hk : k < n) :
    byteOf o n (compose o (split t n v)) k = byteOf t n v k := by
  have hbyte := getElem?_split o (compose o (split t n v)) hk
  rw [split_compose_split, getElem?_split t v hk] at hbyte
  exact (Option.some.inj hbyte).symm

/-- Between the same two orders a conversion is its own inverse, up to truncation. -/
theorem compose_split_compose_split (o t : ByteOrder) (n v : Nat) :
    compose o (split t n (compose o (split t n v))) = v % 256 ^ n := by
  by_cases h : o = t
  · rw [h, split_compose_split, compose_split]
  · calc compose o (split t n (compose o (split t n v)))
        = compose t (split o n (compose o (split t n v))) := by
          rw [compose_split_of_ne h, compose_split_of_ne (Ne.symm h)]
      _ = v % 256 ^ n := by rw [split_compose_split, compose_split]

end Sys2Proof.Claims

namespace Sys2Proof

variable {n : Nat} {i : Instr}

/-! ## The width -/

theorem Instr.wide_of_swap (hf : i.format = .swap) : i.wide = decide (32 < i.fields.imm.toInt) := by
  simp [Instr.wide, hf]

/-- The three widths, in bytes, as an immediate: only 64 has a continuation word (R196 (b)). -/
theorem Instr.swapWidth_parts (hf : i.format = .swap) (hn : n ∈ [2, 4, 8])
    (himm : i.fields.imm = BitVec.ofNat 32 (8 * n)) (hc : n = 8 → i.cont = 0#32) :
    i.imm64 = BitVec.ofNat 64 (8 * n) ∧ i.len = if n = 8 then 2 else 1 := by
  have hw := Instr.wide_of_swap hf
  rw [himm] at hw
  rw [Instr.imm64, Instr.len, himm]
  simp only [List.mem_cons, List.not_mem_nil, or_false] at hn
  rcases hn with rfl | rfl | rfl
  · rw [hw]; exact ⟨rfl, rfl⟩
  · rw [hw]; exact ⟨rfl, rfl⟩
  · rw [hw, hc rfl]; exact ⟨rfl, rfl⟩

end Sys2Proof

namespace Sys2Proof.Machine

open Sys2Proof.Claims

variable {n : Nat}

/-! ## The instructions -/

/-- The byte swaps and the orders they name. -/
def swaps : List (ByteOrder × (Fields → BitVec 32 → Instr)) := [(.le, .le), (.be, .be)]

theorem of_mem_swaps {p : ByteOrder × (Fields → BitVec 32 → Instr)} (hp : p ∈ swaps) (f : Fields) (c : BitVec 32) :
    (p.2 f c).format = .swap ∧ (p.2 f c).fields = f ∧ (p.2 f c).cont = c ∧
      ∀ s, exec (p.2 f c) s = swapTo p.1 (p.2 f c).imm64 (p.2 f c).len f s := by
  simp only [swaps, List.mem_cons, List.not_mem_nil, or_false] at hp
  rcases hp with rfl | rfl <;> exact ⟨rfl, rfl, rfl, fun _ => rfl⟩

/-- What a swap writes, by R196 (e) in either case. -/
theorem swapped_eq (o t : ByteOrder) (hn : n ≤ 8) (v : Nat) :
    (if t = o then BitVec.ofNat 64 (v % 256 ^ n) else bswap n (BitVec.ofNat 64 (v % 256 ^ n))) =
      BitVec.ofNat 64 (compose o (split t n v)) := by
  split
  next h => rw [h, compose_split]
  next h =>
    have hlow : (BitVec.ofNat 64 (v % 256 ^ n)).toNat = v % 256 ^ n := by
      simpa only [compose_split] using toNat_ofNat_compose_split .le .le hn v
    rw [bswap, hlow, split_congr .le n (Nat.mod_mod v (256 ^ n)), compose_split_of_ne (Ne.symm h)]

theorem swapTo_eq (t : ByteOrder) (hn : n ∈ [2, 4, 8]) (words : Int) (f : Fields) (s : State) :
    swapTo t (BitVec.ofNat 64 (8 * n)) words f s =
      writeDst s f.dst (BitVec.ofNat 64 (compose s.byteOrder (split t n (s.reg f.dst).toNat))) words := by
  have hle : n ≤ 8 := size_le_eight (List.mem_cons_of_mem 1 hn)
  have hbits : (BitVec.ofNat 64 (8 * n)).toNat = 8 * n := by
    rw [BitVec.toNat_ofNat]
    omega
  have hok : swapWidthOk (BitVec.ofNat 64 (8 * n)) = true := by
    simp only [List.mem_cons, List.not_mem_nil, or_false] at hn
    rcases hn with rfl | rfl | rfl <;> rfl
  have hpow : 2 ^ (8 * n) = 256 ^ n := Nat.pow_mul 2 8 n
  simp only [swapTo, hok, if_true, hbits, hpow, Nat.mul_div_cancel_left n (by decide : 0 < 8), swapped_eq _ _ hle]
  exact withReg_writeDst s f.dst (fun d => BitVec.ofNat 64 (compose s.byteOrder (split t n d.toNat))) words

section
variable {p : ByteOrder × (Fields → BitVec 32 → Instr)} {f : Fields} {c : BitVec 32}

/-- A swap of a width that the core knows: the bytes in BYTE_ORDER of what it writes are the old bytes in the order
that it names. -/
theorem exec_swap (hp : p ∈ swaps) (hn : n ∈ [2, 4, 8]) (himm : f.imm = BitVec.ofNat 32 (8 * n))
    (hc : n = 8 → c = 0#32) (s : State) : exec (p.2 f c) s = writeDst s f.dst
      (BitVec.ofNat 64 (compose s.byteOrder (split p.1 n (s.reg f.dst).toNat))) (if n = 8 then 2 else 1) := by
  obtain ⟨hf, hfields, hcont, hexec⟩ := of_mem_swaps hp f c
  obtain ⟨himm64, hlen⟩ := Instr.swapWidth_parts hf hn (by rw [hfields, himm]) (by rwa [hcont])
  rw [hexec, himm64, hlen, swapTo_eq p.1 hn]
  split <;> rfl

/-- An immediate with an accepted width is one of the three, the continuation immediate counting for 64 only. -/
theorem imm_of_swapWidthOk (hp : p ∈ swaps) (h : swapWidthOk (p.2 f c).imm64 = true) :
    f.imm = 16#32 ∨ f.imm = 32#32 ∨ (f.imm = 64#32 ∧ c = 0#32) := by
  obtain ⟨hf, hfields, hcont, -⟩ := of_mem_swaps hp f c
  obtain ⟨hf₀, hfields₀, hcont₀, -⟩ := of_mem_swaps hp f 0#32
  have hw := Instr.wide_of_swap hf
  rw [hfields] at hw
  by_cases hbig : 32 < f.imm.toInt
  · rw [Instr.swapWidthOk_imm64_iff (by simp [hw, hbig]), hfields, hcont] at h
    tauto
  · have himm64 : (p.2 f c).imm64 = (p.2 f 0#32).imm64 := by
      simp [Instr.imm64, Instr.wide_of_swap, hf, hf₀, hfields, hfields₀, hbig]
    rw [himm64, Instr.swapWidthOk_imm64_iff fun _ => hcont₀, hfields₀] at h
    obtain ⟨h16 | h32 | h64, -⟩ := h
    · exact .inl h16
    · exact .inr (.inl h32)
    · exact absurd (by rw [h64]; decide) hbig

theorem exec_swap_unsupported (hp : p ∈ swaps) (h16 : f.imm ≠ 16#32) (h32 : f.imm ≠ 32#32)
    (h64 : ¬(f.imm = 64#32 ∧ c = 0#32)) (s : State) : exec (p.2 f c) s = raise s .unsupportedOpcode := by
  obtain ⟨-, -, -, hexec⟩ := of_mem_swaps hp f c
  have hbad : swapWidthOk (p.2 f c).imm64 = false := Bool.eq_false_iff.2 fun h =>
    (imm_of_swapWidthOk hp h).elim h16 fun h => h.elim h32 h64
  rw [hexec, swapTo, hbad]
  rfl

/-- A completed swap: the register holds the converted value, and the other registers, the stack and BYTE_ORDER are as
before. -/
theorem of_exec_swap (hp : p ∈ swaps) (hn : n ∈ [2, 4, 8]) (himm : f.imm = BitVec.ofNat 32 (8 * n))
    (hc : n = 8 → c = 0#32) (hd : f.dst.toNat < 10) {s t : State} (h : exec (p.2 f c) s = .next t) :
    (t.reg f.dst).toNat = compose s.byteOrder (split p.1 n (s.reg f.dst).toNat) ∧
      (∀ j, j ≠ f.dst → t.reg j = s.reg j) ∧ t.stack = s.stack ∧ t.byteOrder = s.byteOrder := by
  rw [exec_swap hp hn himm hc, writeDst_low s hd] at h
  cases h
  refine ⟨?_, fun j hj => ?_, rfl, rfl⟩
  · rw [State.reg_advance, State.reg_setReg s _ _ _ hd.le, if_pos rfl]
    exact toNat_ofNat_compose_split _ _ (size_le_eight (List.mem_cons_of_mem 1 hn)) _
  · rw [State.reg_advance, State.reg_setReg s _ _ _ hd.le, if_neg hj.symm]

end

/-! ## A register store after it -/

/-- A completed register store inside the stack leaves the bytes of the register, in BYTE_ORDER. -/
theorem read_of_storeReg {f : Fields} {s t : State} (hwf : s.stack.wf = true) (hd : f.dst.toNat ≤ 10)
    (hr : f.src.toNat ≤ 10) (hin : Inside (ea s f.dst f) n) (h : storeReg n f s = .next t) {k : Nat} (hk : k < n) :
    t.stack.read ((ea s f.dst f).toNat + k) = byteOf s.byteOrder n (s.reg f.src).toNat k := by
  rw [storeReg_valid n f s hr, storeN_inside n _ f s hd (inBounds_iff.2 hin)] at h
  cases h
  exact read_writeBytes_split hwf hin _ _ hk

end Sys2Proof.Machine
end

section
/-! PROOFS of the statements about the byte swaps (42_alu32.md R196 to R198). -/

namespace Sys2Proof.Proofs

open Sys2Proof.Machine Sys2Proof.Claims

/-- Settles O43: the three widths write what `exec_swap` says, and no other width is accepted. -/
theorem byteSwaps : Obligations.ByteSwaps := by
  intro p hp f c s
  obtain ⟨-, hfields, -, -⟩ := of_mem_swaps hp f c
  refine ⟨fun n hn himm => writesDst_of_exec ?_, fun himm hc => writesDst_of_exec ?_,
    fun h16 h32 h64 => exec_swap_unsupported hp h16 h32 h64 s⟩
  · have hmem : n ∈ [2, 4, 8] := List.mem_append_left [8] hn
    have hne : n ≠ 8 := by
      rintro rfl
      simp at hn
    rw [exec_swap hp hmem himm (fun h => absurd h hne), if_neg hne, compose_split_eq_ite, hfields]
  · have hwhole : (s.reg f.dst).toNat % 256 ^ 8 = (s.reg f.dst).toNat := Nat.mod_eq_of_lt (s.reg f.dst).isLt
    rw [exec_swap hp (n := 8) (by decide) himm (fun _ => hc), if_pos rfl, compose_split_eq_ite, hfields, hwhole]

/-- Settles O44: both swaps convert between the same two orders. -/
theorem swappingTwiceTruncates : Obligations.SwappingTwiceTruncates := by
  intro p hp r q off s t u hr h₁ h₂
  obtain ⟨hi, hn⟩ : p.1 ∈ [Instr.le, Instr.be] ∧ p.2 ∈ [2, 4, 8] :=
    List.mem_product.1 (show p ∈ [Instr.le, Instr.be].product [2, 4, 8] from hp)
  obtain ⟨o, ho⟩ : ∃ o, (o, p.1) ∈ swaps := by simpa [swaps, exists_or] using hi
  obtain ⟨ht, -, -, horder⟩ := of_exec_swap ho hn rfl (fun _ => rfl) hr h₁
  obtain ⟨hu, -⟩ := of_exec_swap ho hn rfl (fun _ => rfl) hr h₂
  rw [hu, ht, horder, compose_split_compose_split]

/-- Settles O34: in BYTE_ORDER, whichever it is, the swapped value has the big-endian bytes of the old one. -/
theorem bigEndianSwapThenStore : Obligations.BigEndianSwapThenStore := by
  intro s t u r base off hwf hr hbase hne hswap hin hstore k hk
  obtain ⟨hval, hregs, hstack, horder⟩ :=
    of_exec_swap (p := (.be, .be)) (n := 4) (by simp [swaps]) (by decide) rfl (by decide) hr hswap
  have hea : ea t base ⟨base, r, off, 0#32⟩ = ea s base ⟨base, r, off, 0#32⟩ := by
    simp only [ea, hregs base hne]
  have hread := read_of_storeReg (n := 4) (hstack ▸ hwf) hbase hr.le (hea ▸ hin) hstore hk
  rw [hea, horder, hval, byteOf_compose_split _ _ _ hk] at hread
  exact hread

end Sys2Proof.Proofs
end

section
/-! SUPPORT. From the shapes of the loads and stores (43_load_store.md R210) to the words of the statements. -/

namespace Sys2Proof.Machine

open Sys2Proof.Claims

variable {s : State} {f : Fields} {n : Nat}

/-! ## Stores -/

/-- A store inside the stack completes, and stores what the statements say (20_memory.md R54). -/
theorem exists_stored_of_storeN (hwf : s.stack.wf = true) (hd : f.dst.toNat ≤ 10) (hin : Inside (ea s f.dst f) n)
    (v : Word) : ∃ t, storeN n v f s = .next t ∧ Stored s t (ea s f.dst f) n v :=
  ⟨_, storeN_inside n v f s hd (inBounds_iff.2 hin), rfl, fun _ hk => read_writeBytes_split hwf hin _ _ hk,
    fun _ ha => read_writeBytes_split_outside _ hin _ _ ha⟩

theorem storeN_invalid (n : Nat) (v : Word) (s : State) (hd : 10 < f.dst.toNat) :
    storeN n v f s = raise s .invalidRegister := withReg_invalid s hd _

/-- Whichever of its two registers a register store finds missing, it takes the same fault (10_state.md R22). -/
theorem storeReg_invalid (n : Nat) (s : State) (h : 10 < f.dst.toNat ∨ 10 < f.src.toNat) :
    storeReg n f s = raise s .invalidRegister := by
  by_cases hr : 10 < f.src.toNat
  · exact withReg_invalid s hr _
  · rw [storeReg_valid n f s (not_lt.1 hr)]
    exact storeN_invalid n _ s (h.resolve_right hr)

/-! ## The wide load -/

/-- The composed immediate as a number (30_encoding.md R91). -/
theorem append_eq_ofNat (c v : BitVec 32) : (c ++ v : Word) = BitVec.ofNat 64 (c.toNat * 2 ^ 32 + v.toNat) := by
  rw [← Nat.shiftLeft_eq, Nat.shiftLeft_add_eq_or_of_lt v.isLt, ← BitVec.toNat_append, BitVec.ofNat_toNat]
  exact (BitVec.setWidth_eq _).symm

end Sys2Proof.Machine

namespace Sys2Proof.Claims

open Sys2Proof.Machine

variable {i : Fields → Instr} {n : Nat}

/-! ## The three shapes -/

theorem loads_of_loadN (hfields : ∀ f, (i f).fields = f) (hexec : ∀ f s, exec (i f) s = loadN n f s) : Loads i n := by
  intro f s
  refine ⟨fun hr hin => writesDst_of_exec ?_, fun hr hout => ?_, fun hr => ?_⟩
  · have hread := memRead_eq_valueOf s hin
    rw [memRead_inside s (inBounds_iff.2 hin)] at hread
    rw [hexec, hfields, loadN_inside n f s hr (inBounds_iff.2 hin), ← Option.some.inj hread]
    rfl
  · exact (hexec f s).trans (loadN_outside n f s hr (inBounds_eq_false hout))
  · exact (hexec f s).trans (withReg_invalid s hr _)

theorem storesImm_of_storeImm (hexec : ∀ f s, exec (i f) s = storeImm n f s) : StoresImm i n := by
  intro f s hwf
  rw [hexec]
  exact ⟨fun hd hin => exists_stored_of_storeN hwf hd hin _,
    fun hd hout => storeN_outside n _ f s hd (inBounds_eq_false hout), fun hd => storeN_invalid n _ s hd⟩

theorem storesReg_of_storeReg (hexec : ∀ f s, exec (i f) s = storeReg n f s) : StoresReg i n := by
  intro f s hwf
  rw [hexec]
  refine ⟨fun hd hr hin => ?_, fun hd hr hout => ?_, storeReg_invalid n s⟩
  · rw [storeReg_valid n f s hr]
    exact exists_stored_of_storeN hwf hd hin _
  · rw [storeReg_valid n f s hr]
    exact storeN_outside n _ f s hd (inBounds_eq_false hout)

end Sys2Proof.Claims
end

section
/-! PROOFS of the statements about loads, stores and the named opcodes without an operation (43_load_store.md). -/

namespace Sys2Proof.Proofs

open Sys2Proof.Machine Sys2Proof.Claims

/-- Settles O46. -/
theorem loadsReadTheStack : Obligations.LoadsReadTheStack :=
  ⟨loads_of_loadN (fun _ => rfl) fun _ _ => rfl, loads_of_loadN (fun _ => rfl) fun _ _ => rfl,
    loads_of_loadN (fun _ => rfl) fun _ _ => rfl, loads_of_loadN (fun _ => rfl) fun _ _ => rfl⟩

/-- Settles O47: the model's immediate operand is the sign extension of the statements (D18). -/
theorem immediateStores : Obligations.ImmediateStores :=
  ⟨storesImm_of_storeImm fun _ _ => rfl, storesImm_of_storeImm fun _ _ => rfl,
    storesImm_of_storeImm fun _ _ => rfl, storesImm_of_storeImm fun _ _ => rfl⟩

/-- Settles O48. -/
theorem registerStores : Obligations.RegisterStores :=
  ⟨storesReg_of_storeReg fun _ _ => rfl, storesReg_of_storeReg fun _ _ => rfl,
    storesReg_of_storeReg fun _ _ => rfl, storesReg_of_storeReg fun _ _ => rfl⟩

/-- Settles O45: appending the two immediates is the sum that the statement writes. -/
theorem wideLoad : Obligations.WideLoad := by
  intro f c s
  rw [← append_eq_ofNat]
  exact writesDst_of_exec rfl

/-- Settles O54: each of the eight answers fault entry, whatever its operands name. -/
theorem namedButUnsupportedOpcodes : Obligations.NamedButUnsupportedOpcodes := by
  intro i hi f s
  simp only [List.mem_cons, List.not_mem_nil, or_false] at hi
  rcases hi with rfl | rfl | rfl | rfl | rfl | rfl | rfl | rfl <;> rfl

end Sys2Proof.Proofs
end

section
/-! SUPPORT. The comparators over `Nat` and `Int`, at either width, and the two shapes of a conditional jump in the
words of the statements (44_jump.md R250 to R252). -/

namespace Sys2Proof.Machine

open Sys2Proof.Claims

section
variable {w : Nat}

/-! ## Comparators -/

theorem cmpEq_eq (d v : BitVec w) : cmpEq d v = decide (d.toNat = v.toNat) :=
  (beq_eq_decide d v).trans (decide_eq_decide.2 BitVec.toNat_eq)

theorem cmpNe_eq (d v : BitVec w) : cmpNe d v = decide (d.toNat ≠ v.toNat) :=
  (congrArg (!·) (cmpEq_eq d v)).trans decide_not.symm

theorem cmpGt_eq (d v : BitVec w) : cmpGt d v = decide (d.toNat > v.toNat) := rfl

theorem cmpGe_eq (d v : BitVec w) : cmpGe d v = decide (d.toNat ≥ v.toNat) := rfl

theorem cmpLt_eq (d v : BitVec w) : cmpLt d v = decide (d.toNat < v.toNat) := rfl

theorem cmpLe_eq (d v : BitVec w) : cmpLe d v = decide (d.toNat ≤ v.toNat) := rfl

theorem cmpSgt_eq (d v : BitVec w) : cmpSgt d v = decide (d.toInt > v.toInt) := rfl

theorem cmpSge_eq (d v : BitVec w) : cmpSge d v = decide (d.toInt ≥ v.toInt) := rfl

theorem cmpSlt_eq (d v : BitVec w) : cmpSlt d v = decide (d.toInt < v.toInt) := rfl

theorem cmpSle_eq (d v : BitVec w) : cmpSle d v = decide (d.toInt ≤ v.toInt) := rfl

/-- The bitwise AND is 0 exactly where no bit stands in both operands. -/
theorem cmpSet_eq (d v : BitVec w) : cmpSet d v = (List.range w).any fun i => d.getLsbD i && v.getLsbD i := by
  rw [cmpSet, bne, Bool.not_eq_eq_eq_not, Bool.eq_iff_iff, beq_iff_eq, BitVec.eq_of_getLsbD_eq_iff]
  simp

end

/-! ## Jumps -/

/-- What the model's jump answers, in the statements' words: only `pc` changes (R250). -/
theorem jumpIf_eq (taken : Bool) (f : Fields) (s : State) : jumpIf taken f s = .next (jumped s f taken) := by
  cases taken with
  | false => rfl
  | true => simp only [jumpIf, jumped, State.advance, if_true, Int.add_assoc]

/-- Whichever of its two registers a jump finds missing, it takes the same fault (10_state.md R22). -/
theorem jump64X_invalid (cmp : Word → Word → Bool) (f : Fields) (s : State) (h : 10 < f.dst.toNat ∨ 10 < f.src.toNat) :
    jump64X cmp f s = raise s .invalidRegister := by
  by_cases hr : 10 < f.src.toNat
  · simp only [jump64X, withReg_invalid s hr]
    exact withReg_raise_invalidRegister s f.dst
  · exact withReg_invalid s (h.resolve_right hr) _

/-- The 64-bit comparison that a 32-bit one makes: of the low halves (R252). -/
def cmpLowHalves (cmp : BitVec 32 → BitVec 32 → Bool) (d v : Word) : Bool := cmp (low32 d) (low32 v)

theorem jump32K_eq_jump64K (cmp : BitVec 32 → BitVec 32 → Bool) (f : Fields) (s : State) :
    jump32K cmp f s = jump64K (cmpLowHalves cmp) f s := by
  simp only [jump32K, jump64K, cmpLowHalves, low32_immOperand]

theorem jump32X_eq_jump64X (cmp : BitVec 32 → BitVec 32 → Bool) (f : Fields) (s : State) :
    jump32X cmp f s = jump64X (cmpLowHalves cmp) f s := rfl

end Sys2Proof.Machine

namespace Sys2Proof.Claims

open Sys2Proof.Machine

variable {k x : Fields → Instr}

/-- Two instructions of the JMP shapes are a comparison of R251, whatever function equals what they compute. -/
theorem jump64_of_shapes {cmp cmp' : Word → Word → Bool} (hcmp : ∀ d v, cmp d v = cmp' d v)
    (hexec : ∀ f s, exec (k f) s = jump64K cmp f s ∧ exec (x f) s = jump64X cmp f s) : Jump64 k x cmp' := by
  obtain rfl : cmp = cmp' := funext₂ hcmp
  intro f s
  obtain ⟨hk, hx⟩ := hexec f s
  rw [hk, hx]
  refine ⟨fun hd => ?_, fun hd hr => ?_, fun hd => withReg_invalid s hd _, jump64X_invalid cmp f s⟩
  · rw [jump64K_valid cmp f s hd, jumpIf_eq, sext_eq_immOperand]
  · rw [jump64X_valid cmp f s hd hr, jumpIf_eq]

theorem jump32_of_jump64 {cmp : BitVec 32 → BitVec 32 → Bool} (h : Jump64 k x (cmpLowHalves cmp)) : Jump32 k x cmp := by
  intro f s
  have hfs := h f s
  simp only [sext_eq_immOperand, cmpLowHalves, low32_immOperand] at hfs
  simpa only [low_eq_low32] using hfs

/-- Two instructions of the JMP32 shapes are a comparison of R252, whatever function equals what they compute. -/
theorem jump32_of_shapes {cmp cmp' : BitVec 32 → BitVec 32 → Bool} (hcmp : ∀ d v, cmp d v = cmp' d v)
    (hexec : ∀ f s, exec (k f) s = jump32K cmp f s ∧ exec (x f) s = jump32X cmp f s) : Jump32 k x cmp' := by
  obtain rfl : cmp = cmp' := funext₂ hcmp
  exact jump32_of_jump64 (jump64_of_shapes (fun _ _ => rfl) fun f s =>
    ⟨(hexec f s).1.trans (jump32K_eq_jump64K cmp f s), (hexec f s).2.trans (jump32X_eq_jump64X cmp f s)⟩)

/-- No word is above the sign extension of -1, the largest word. -/
theorem cmpGt_sext_neg_one (d : Word) : cmpGt d (sext (-1#32)) = false := by
  have hmax : (sext (-1#32)).toNat = 2 ^ 64 - 1 := by decide
  have hlt := d.isLt
  rw [cmpGt_eq, decide_eq_false_iff_not]
  omega

end Sys2Proof.Claims
end

section
/-! SUPPORT. The `call` of a known id, and the bytes that an effect's stores leave (44_jump.md R276). -/

namespace Sys2Proof.Machine

open Sys2Proof.Claims

/-! ## The instruction -/

theorem exec_call_of_lookup {f : Fields} {s : State} {e : HelperEffect} (h : s.helpers.lookup f.imm = some e) :
    exec (.call f) s = .next { s with
      regs := s.helperRegs f.imm e, stack := s.helperStack f.imm e, pc := s.pc + 1, draws := s.draws + 1 } := by
  simp only [exec, execCall, h]

theorem exec_call_of_lookup_eq_none {f : Fields} {s : State} (h : s.helpers.lookup f.imm = none) :
    exec (.call f) s = raise s .unsupportedOpcode := by
  simp only [exec, execCall, h]

theorem allows_helperOutcome (s : State) (id : HelperId) (e : HelperEffect) :
    e.Allows (argsOf s) s.stack (s.helperOutcome id e) := ⟨_, _, rfl⟩

/-! ## The stores -/

section
variable {args : HelperArgs} {stack : Memory} {w : Nat → Word} {b : Nat → Byte}

/-- The memory `m` after the stores `l`, whose expressions read the stack before the call. -/
def runStores (args : HelperArgs) (stack : Memory) (w : Nat → Word) (l : List (HelperExpr × HelperExpr)) (m : Memory) :
    Memory :=
  l.foldl (fun m p => HelperEffect.store m (p.1.eval args stack.read w) (p.2.eval args stack.read w)) m

theorem outcome_stack (e : HelperEffect) : (e.outcome args stack w b).stack =
    runStores args stack w e.stores (if e.keepsStack then stack else Memory.tabulate b 0 Config.stackSize) := rfl

/-- The stores before `p` make the stack of a shorter effect; `p` and the later stores run on it. -/
theorem outcome_stack_split {e : HelperEffect} {before after : List (HelperExpr × HelperExpr)}
    {p : HelperExpr × HelperExpr} (h : e.stores = before ++ p :: after) :
    (e.outcome args stack w b).stack = runStores args stack w after
      (HelperEffect.store (HelperEffect.outcome { e with stores := before } args stack w b).stack
        (p.1.eval args stack.read w) (p.2.eval args stack.read w)) := by
  simp only [outcome_stack, h, runStores, List.foldl_append, List.foldl_cons]

/-- A byte that no store names stays. -/
theorem read_runStores_of_ne {l : List (HelperExpr × HelperExpr)} {m : Memory} {a : Nat}
    (h : ∀ p ∈ l, (p.1.eval args stack.read w).toNat ≠ a) : (runStores args stack w l m).read a = m.read a := by
  induction l generalizing m with
  | nil => rfl
  | cons p l ih =>
    obtain ⟨hp, hl⟩ := List.forall_mem_cons.1 h
    exact (ih hl).trans (read_store_ne m _ _ hp)

/-- A byte that a store names, and no later store, is the low byte of that store's value. -/
theorem read_outcome_of_last_store {e : HelperEffect} {before after : List (HelperExpr × HelperExpr)}
    {p : HelperExpr × HelperExpr} (hwf : stack.wf = true) (h : e.stores = before ++ p :: after)
    (hp : (p.1.eval args stack.read w).toNat < 512)
    (hlast : ∀ q ∈ after, q.1.eval args stack.read w ≠ p.1.eval args stack.read w) :
    (e.outcome args stack w b).stack.read (p.1.eval args stack.read w).toNat =
      BitVec.ofNat 8 (p.2.eval args stack.read w).toNat := by
  rw [outcome_stack_split h, read_runStores_of_ne fun q hq => BitVec.toNat_ne.1 (hlast q hq),
    read_store_self (wf_outcome_stack _ args hwf w b) _ hp, BitVec.ofNat_toNat]

/-- An effect that keeps the stack changes only the bytes that its stores name. -/
theorem read_outcome_of_kept {e : HelperEffect} (hk : e.keepsStack = true) {a : Nat}
    (h : ∀ p ∈ e.stores, (p.1.eval args stack.read w).toNat ≠ a) :
    (e.outcome args stack w b).stack.read a = stack.read a := by
  rw [outcome_stack, read_runStores_of_ne h, if_pos hk]

end

/-! ## The effect that says nothing -/

theorem Memory.tabulate_read {m : Memory} (hm : m.wf = true) : Memory.tabulate m.read 0 Config.stackSize = m := by
  refine Memory.ext_of_wfFrom (Memory.wf_tabulate m.read _ le_rfl) hm fun a => ?_
  by_cases ha : a < Config.stackSize
  · exact Memory.read_tabulate m.read 0 Config.stackSize a (by omega) (by omega) (by omega)
  · rw [Memory.read_above (Memory.wf_tabulate m.read _ le_rfl) (not_lt.1 ha), Memory.read_above hm (not_lt.1 ha)]

/-- The free words are the outcome's registers, the free bytes its stack. -/
theorem unspecified_allows (args : HelperArgs) (stack : Memory) {o : HelperOutcome} (h : o.stack.wf = true) :
    HelperEffect.unspecified.Allows args stack o := by
  obtain ⟨regs, m⟩ := o
  refine ⟨fun k => regs[k]?.getD 0#64, m.read, congrArg₂ HelperOutcome.mk ?_ (Memory.tabulate_read h).symm⟩
  refine Vector.ext fun k hk => ?_
  interval_cases k <;> rfl

end Sys2Proof.Machine
end

section
/-! PROOFS of the statements about jumps, `call` and `exit` (44_jump.md). -/

namespace Sys2Proof.Proofs

open Sys2Proof.Machine Sys2Proof.Claims

/-- Settles O49: a step that leaves the state as it is leaves it so after any number of steps. -/
theorem jumpAlways : Obligations.JumpAlways := by
  have hja (f : Fields) (s : State) : exec (.ja f) s = .next { s with pc := s.pc + 1 + f.off.toInt } :=
    jumpIf_eq true f s
  refine ⟨hja, fun s f n hoff hs hd => ?_⟩
  have hstep : step s = .next s := by
    rw [step_instr hs hd, hja, hoff, show (-1#16).toInt = -1 by decide, Int.add_neg_cancel_right]
  refine State.after_induction (P := (· = s)) (fun u t hu ht => ?_) n rfl
  rw [hu, hstep] at ht
  exact (Host.Outcome.next.inj ht).symm

/-- Settles O50: `jgt` with the immediate -1 compares with the largest word. -/
theorem comparators64 : Obligations.Comparators64 := by
  refine ⟨jump64_of_shapes cmpEq_eq fun _ _ => ⟨rfl, rfl⟩, jump64_of_shapes cmpNe_eq fun _ _ => ⟨rfl, rfl⟩,
    jump64_of_shapes cmpGt_eq fun _ _ => ⟨rfl, rfl⟩, jump64_of_shapes cmpGe_eq fun _ _ => ⟨rfl, rfl⟩,
    jump64_of_shapes cmpLt_eq fun _ _ => ⟨rfl, rfl⟩, jump64_of_shapes cmpLe_eq fun _ _ => ⟨rfl, rfl⟩,
    jump64_of_shapes cmpSgt_eq fun _ _ => ⟨rfl, rfl⟩, jump64_of_shapes cmpSge_eq fun _ _ => ⟨rfl, rfl⟩,
    jump64_of_shapes cmpSlt_eq fun _ _ => ⟨rfl, rfl⟩, jump64_of_shapes cmpSle_eq fun _ _ => ⟨rfl, rfl⟩,
    jump64_of_shapes cmpSet_eq fun _ _ => ⟨rfl, rfl⟩, fun f s hd himm => ?_⟩
  calc exec (.jgtK f) s
    _ = jumpIf (cmpGt (s.reg f.dst) (immOperand f)) f s := jump64K_valid cmpGt f s hd
    _ = jumpIf false f s := by rw [← sext_eq_immOperand, himm, cmpGt_sext_neg_one]
    _ = .next { s with pc := s.pc + 1 } := rfl

/-- Settles O51: each 32-bit jump is a 64-bit one on the low halves. -/
theorem comparators32 : Obligations.Comparators32 :=
  ⟨jump32_of_shapes cmpEq_eq fun _ _ => ⟨rfl, rfl⟩, jump32_of_shapes cmpNe_eq fun _ _ => ⟨rfl, rfl⟩,
    jump32_of_shapes cmpGt_eq fun _ _ => ⟨rfl, rfl⟩, jump32_of_shapes cmpGe_eq fun _ _ => ⟨rfl, rfl⟩,
    jump32_of_shapes cmpLt_eq fun _ _ => ⟨rfl, rfl⟩, jump32_of_shapes cmpLe_eq fun _ _ => ⟨rfl, rfl⟩,
    jump32_of_shapes cmpSgt_eq fun _ _ => ⟨rfl, rfl⟩, jump32_of_shapes cmpSge_eq fun _ _ => ⟨rfl, rfl⟩,
    jump32_of_shapes cmpSlt_eq fun _ _ => ⟨rfl, rfl⟩, jump32_of_shapes cmpSle_eq fun _ _ => ⟨rfl, rfl⟩,
    jump32_of_shapes cmpSet_eq fun _ _ => ⟨rfl, rfl⟩⟩

/-- Settles O52: the outcome is the one that this call's free values make. -/
theorem callRunsTheHelper : Obligations.CallRunsTheHelper := by
  refine ⟨fun f s e he => ⟨_, s.helperOutcome f.imm e, exec_call_of_lookup he, allows_helperOutcome s f.imm e, rfl,
    fun r hr => ?_, fun r hr => ?_⟩, fun f s he => exec_call_of_lookup_eq_none he⟩
  · rw [← State.reg?_of_le _ (by omega)]
    exact (helperRegs_low s f.imm e hr).symm
  · exact congrArg (·.getD 0#64) (helperRegs_high s f.imm e hr)

/-- Settles O53: the state that `exit` answers is the one the statement writes. -/
theorem exitEndsTheRun : Obligations.ExitEndsTheRun := fun _ _ => rfl

/-- Settles O55: the choice is the one that made the outcome. -/
theorem helperOutcomesFollowTheEffect : Obligations.HelperOutcomesFollowTheEffect := by
  refine ⟨?_, fun args stack o ho => unspecified_allows args stack ho⟩
  rintro e args stack o hwf ⟨w, b, rfl⟩
  exact ⟨w, fun k hk => outcome_regs e args stack w b hk, wf_outcome_stack e args hwf w b,
    fun _ _ _ => read_outcome_of_last_store hwf, fun hk _ => read_outcome_of_kept hk⟩

/-- Settles O56, from O52: the outcome's x[0] is the sum, and its stack is the one before, without a store. -/
theorem sumHelperOfTheSpec : Obligations.SumHelperOfTheSpec := by
  intro f s he
  obtain ⟨t, o, hexec, ⟨w, b, rfl⟩, ht, hlow, hhigh⟩ := callRunsTheHelper.1 f s sumEffect he
  have hsum : t.reg 0#4 = s.reg 1#4 + s.reg 2#4 := (Option.some.inj (hlow 0#4 (by decide))).symm
  refine ⟨t, hexec, ?_, hhigh, ?_⟩
  · rw [hsum, BitVec.toNat_add]
  · rw [ht]
    exact ⟨rfl, rfl, rfl, rfl⟩

end Sys2Proof.Proofs
end

section
/-! SUPPORT. The step on the bytes at `pc` (45_fetch_execute.md R322), what ends a run (R326 to R328), and two runs that
differ in the draw count (R329). -/

namespace Sys2Proof

/-- The core fetches at least as many bytes as any encoding has (30_encoding.md R99; 40_decoder.md R111). -/
theorem length_encode_le (o : ByteOrder) (i : Instr) : (encode o i).length ≤ 16 := by
  cases hw : i.wide with
  | false => simp [encode_of_narrow o hw, encodeWord]
  | true => simp [encode_of_wide o hw, encodeWord, encodeCont]

theorem Instr.exists_exit_of_format {i : Instr} (h : i.format = .exit) : ∃ f, i = .exit f := by
  cases i with
  | exit f => exact ⟨f, rfl⟩
  | _ => cases h

end Sys2Proof

namespace Sys2Proof.Machine

open Sys2Proof.Claims

variable {s s' t : State} {i : Instr}

/-! ## Fetch -/

theorem fetchBytes_eq_bytesAt (s : State) : s.fetchBytes = bytesAt s 16 := rfl

theorem fetchBytes_of_encode {rest : List Byte} (hpc : 0 ≤ s.pc)
    (h : s.prog.drop (8 * s.pc.toNat) = encode s.byteOrder i ++ rest) :
    s.fetchBytes = encode s.byteOrder i ++ rest.take (16 - (encode s.byteOrder i).length) := by
  rw [State.fetchBytes, if_neg (not_lt.2 hpc), h, List.take_append,
    List.take_of_length_le (length_encode_le s.byteOrder i)]

/-! ## The end of a run -/

/-- From Running only a fault or `exit` ends the run. -/
theorem Effect.running_or_faulted (h : Effect i s t) (hs : s.status = .running) (hexit : i.format ≠ .exit) :
    t.status = .running ∨ ∃ k, t = s.takeFault k := by
  obtain hfault | ⟨-, hne⟩ := h.faults_or_keeps_fault hs
  · exact .inr hfault
  · exact .inl (((h.status_eq_or_faulted hexit).resolve_right hne).trans hs)

/-- Only `exit` enters Exited, and it writes STATUS alone. -/
theorem Effect.exit_of_exited (h : Effect i s t) (hs : s.status = .running) (ht : t.status = .exited) :
    i.format = .exit ∧ t = { s with status := .exited } := by
  cases h with
  | exit hf => exact ⟨hf, rfl⟩
  | fault k => cases ht
  | write | store | jump | call => simp [hs] at ht

theorem State.after_of_step_eq_self (h : step s = .next s) (n : Nat) : s.after n = s := by
  refine State.after_induction (P := (· = s)) (fun u t hu ht => ?_) n rfl
  rw [hu, h] at ht
  exact (Host.Outcome.next.inj ht).symm

/-! ## Two runs -/

theorem stepped_of_step (h : step s = .next t) : s.stepped = t :=
  Host.Outcome.next.inj ((step_next_stepped s).symm.trans h)

theorem helpers_stepped (s : State) : s.stepped.helpers = s.helpers := by
  obtain ⟨-, -, hhelpers⟩ := step_sameInputs (step_next_stepped s)
  exact hhelpers

/-- The two states agree in all but the draw count, the model's own field (log 7). -/
def EqButDraws (s s' : State) : Prop := s' = { s with draws := s'.draws }

theorem eqButDraws_iff : EqButDraws s s' ↔ Alike s s' ∧ s'.status = s.status ∧ s'.fault = s.fault := by
  constructor
  · intro h
    rw [h]
    exact ⟨⟨rfl, rfl, rfl, rfl, rfl, rfl⟩, rfl, rfl⟩
  · rintro ⟨⟨hregs, hpc, hstack, horder, hprog, hhelpers⟩, hstatus, hfault⟩
    cases s'
    simp only at hregs hpc hstack horder hprog hhelpers hstatus hfault
    simp only [EqButDraws, hregs, hpc, hstack, horder, hprog, hhelpers, hstatus, hfault]

/-- Where no helper leaves anything open, a step does not see the draw count. -/
theorem EqButDraws.stepped (h : EqButDraws s s') (hf : ∀ p ∈ s.helpers, p.2.functional = true) :
    EqButDraws s.stepped s'.stepped := by
  obtain ⟨halike, hstatus, hfault⟩ := eqButDraws_iff.1 h
  by_cases hs : s.status = .running
  · obtain ⟨t, t', ht, ht', halike', hkeep, -⟩ := step_alike halike hs (hstatus.trans hs) hf
    rw [stepped_of_step ht, stepped_of_step ht']
    exact eqButDraws_iff.2 ⟨halike', hkeep hstatus hfault⟩
  · rwa [stepped_of_step (step_terminal hs), stepped_of_step (step_terminal (hstatus ▸ hs))]

theorem EqButDraws.after (h : EqButDraws s s') (hf : ∀ p ∈ s.helpers, p.2.functional = true) (n : Nat) :
    EqButDraws (s.after n) (s'.after n) := by
  induction n generalizing s s' with
  | zero => exact h
  | succ n ih => exact ih (h.stepped hf) ((helpers_stepped s).symm ▸ hf)

theorem EqButDraws.stepsTaken_eq (h : EqButDraws s s') (hf : ∀ p ∈ s.helpers, p.2.functional = true) (n : Nat) :
    s'.stepsTaken n = s.stepsTaken n := by
  induction n generalizing s s' with
  | zero => rfl
  | succ n ih =>
    obtain ⟨-, hstatus, -⟩ := eqButDraws_iff.1 h
    rw [State.stepsTaken, State.stepsTaken, hstatus, ih (h.stepped hf) ((helpers_stepped s).symm ▸ hf)]

end Sys2Proof.Machine
end

section
/-! PROOFS of the statements about fetch and execution (45_fetch_execute.md). -/

namespace Sys2Proof.Proofs

open Sys2Proof.Machine Sys2Proof.Claims

/-- Settles O14: the bytes that the step decodes are those of PROG from `8*pc` on. -/
theorem stepRunsTheDecodedInstruction : Obligations.StepRunsTheDecodedInstruction := by
  intro s hs
  rw [← fetchBytes_eq_bytesAt]
  exact ⟨fun _ hd => step_instr hs hd, fun _ hd => step_fault hs hd⟩

/-- Settles O15, from O10: the 16 bytes that are fetched hold the whole encoding. -/
theorem stepRunsTheEncodedInstruction : Obligations.StepRunsTheEncodedInstruction := by
  intro s i rest hs hpc hprog hwf hsup hcall
  refine step_instr hs ?_
  rw [State.fetchDecode, fetchBytes_of_encode hpc hprog]
  exact decodeOfEncode.2 s.byteOrder s.helperIds i _ hwf hsup hcall

/-- Settles O16, row by row of the table. -/
theorem stateMachineTransitions : Obligations.StateMachineTransitions := by
  refine ⟨fun inp _ => ⟨rfl, rfl, rfl, reg_resetWith_frame inp⟩, fun _ _ => step_fault, fun _ _ => step_instr,
    fun s i hs hd hexit => ?_, fun s hs => step_terminal (by rcases hs with hs | hs <;> simp [hs])⟩
  obtain ⟨t, ht, he⟩ := exec_answers i s
  exact ⟨t, (step_instr hs hd).trans ht, ht, he.running_or_faulted hs hexit⟩

/-- Settles O20: of a Running step's effects only that of `exit` enters Exited. -/
theorem terminalStatesNeverChange : Obligations.TerminalStatesNeverChange := by
  refine ⟨fun s n hs => State.after_of_step_eq_self (step_terminal hs) n, fun s t hs h ht => ?_⟩
  obtain ⟨hne, -⟩ | ⟨-, k, -, rfl⟩ | ⟨-, i, hd, he⟩ := step_cases h
  · exact absurd hs hne
  · cases ht
  · obtain ⟨hformat, hkeeps⟩ := he.exit_of_exited hs ht
    obtain ⟨f, rfl⟩ := Instr.exists_exit_of_format hformat
    exact ⟨⟨f, hd⟩, hkeeps⟩

/-- Settles O57, by induction over the run: the two reset states differ in the draw count only. -/
theorem functionalHelpersMakeRunsDeterministic : Obligations.FunctionalHelpersMakeRunsDeterministic := by
  intro inp d n hf
  have hreset : EqButDraws (State.resetWith inp) (State.resetWith { inp with firstDraw := d }) := rfl
  exact ⟨hreset.after hf n, hreset.stepsTaken_eq hf n⟩

end Sys2Proof.Proofs
end

section
/-! SUPPORT. The bytes that a fault records, by what stands at `pc` (60_exceptions.md R350). -/

namespace Sys2Proof

theorem rawOf_narrow (o : ByteOrder) (b0 b1 b2 b3 b4 b5 b6 b7 : Byte) (rest : List Byte)
    (hw : wideWord b0 (Fields.ofBytes o b1 b2 b3 b4 b5 b6 b7).imm = false) :
    rawOf o (b0 :: b1 :: b2 :: b3 :: b4 :: b5 :: b6 :: b7 :: rest) = [b0, b1, b2, b3, b4, b5, b6, b7] := by
  simp [rawOf, hw]

theorem rawOf_truncated (o : ByteOrder) {bytes : List Byte} (hlen : bytes.length < 8) : rawOf o bytes = bytes := by
  unfold rawOf
  split
  · simp only [List.length_cons] at hlen
    omega
  · rfl

end Sys2Proof

namespace Sys2Proof.Claims

open Sys2Proof.Machine

variable {s : State}

/-- The first `n` of the fetched bytes are the first `n` from `8*pc`. -/
theorem take_fetchBytes {n : Nat} (hn : n ≤ 16) : s.fetchBytes.take n = bytesAt s n := by
  unfold State.fetchBytes bytesAt
  split
  · exact List.take_nil
  · rw [List.take_take, min_eq_left hn]

theorem length_fetchBytes_lt_eight (h : FirstWordMissing s) : s.fetchBytes.length < 8 :=
  not_le.1 fun hlen => eight_le_length_fetchBytes_iff.1 hlen h

theorem rawBytes_of_firstWordMissing (h : FirstWordMissing s) : s.rawBytes = s.fetchBytes :=
  rawOf_truncated _ (length_fetchBytes_lt_eight h)

theorem fetchBytes_of_firstWordMissing (h : FirstWordMissing s) : s.fetchBytes = bytesAt s 8 := by
  rw [← take_fetchBytes (by decide : 8 ≤ 16), List.take_of_length_le (length_fetchBytes_lt_eight h).le]

theorem rawBytes_eq_bytesAt_sixteen (hfirst : ¬FirstWordMissing s) (hw : WideAt s) : s.rawBytes = bytesAt s 16 := by
  rw [rawBytes_of_wide hfirst hw, bytesAt, if_neg fun hpc => hfirst (.inl hpc)]

/-- A one-word instruction's fault records its eight bytes. -/
theorem rawBytes_of_narrow (hfirst : ¬FirstWordMissing s) (hw : ¬WideAt s) :
    s.rawBytes = bytesAt s 8 ∧ s.rawBytes.length = 8 := by
  have hword : wideWord (progByte s 0) (fieldsAt s).imm = false := by
    rw [fieldsAt_imm, Bool.eq_false_iff, Ne, wideWord_at_iff]
    exact hw
  have hraw : s.rawBytes = [progByte s 0, progByte s 1, progByte s 2, progByte s 3, progByte s 4, progByte s 5,
      progByte s 6, progByte s 7] := by
    rw [State.rawBytes, fetchBytes_of_firstWord hfirst]
    exact rawOf_narrow s.byteOrder _ _ _ _ _ _ _ _ _ hword
  rw [← take_fetchBytes (by decide : 8 ≤ 16), fetchBytes_of_firstWord hfirst, hraw]
  exact ⟨rfl, rfl⟩

/-- In each of its three cases DecodeFault records all that was fetched (60_exceptions.md R341). -/
theorem rawBytes_of_decodeFaultAt (h : DecodeFaultAt s) : s.rawBytes = bytesAt s 16 := by
  by_cases hfirst : FirstWordMissing s
  · exact rawBytes_of_firstWordMissing hfirst
  · obtain ⟨hw, -⟩ | ⟨hw, -⟩ := h.resolve_left hfirst
    all_goals exact rawBytes_eq_bytesAt_sixteen hfirst hw

end Sys2Proof.Claims
end

section
/-! SUPPORT. Fault entry, and what the instructions do with STATUS and FAULT (60_exceptions.md R349 to R351). -/

namespace Sys2Proof.Machine

variable {i : Instr} {s t : State} {k k' : FaultKind}

theorem raise_inj : raise s k = raise s k' ↔ k = k' := by
  simp [raise, State.takeFault]

theorem next_ne_raise (ht : t.status ≠ .faulted) : Host.Outcome.next t ≠ raise s k := fun h =>
  ht (congrArg State.status (Host.Outcome.next.inj h))

/-- From Running an instruction enters Faulted only by fault entry, and never with DecodeFault. -/
theorem Effect.takeFault_of_faulted (h : Effect i s t) (hs : s.status = .running) (ht : t.status = .faulted) :
    ∃ k, k ≠ .decodeFault ∧ t = s.takeFault k := by
  cases h with
  | fault k hk => exact ⟨k, hk, rfl⟩
  | exit => cases ht
  | write | store | jump | call => simp [hs] at ht

/-- A Running step enters Faulted only by fault entry. -/
theorem takeFault_of_step (h : step s = .next t) (hs : s.status = .running) (ht : t.status = .faulted) :
    ∃ k, t = s.takeFault k := by
  obtain ⟨hne, -⟩ | ⟨-, k, -, rfl⟩ | ⟨-, i, -, he⟩ := step_cases h
  · exact absurd hs hne
  · exact ⟨k, rfl⟩
  · obtain ⟨k, -, hk⟩ := he.takeFault_of_faulted hs ht
    exact ⟨k, hk⟩

theorem exec_ne_raise_decodeFault (hs : s.status = .running) : exec i s ≠ raise s .decodeFault := by
  intro h
  obtain ⟨k, hk, ht⟩ := (effect_of_exec h).takeFault_of_faulted hs rfl
  exact hk (raise_inj.1 (congrArg Host.Outcome.next ht)).symm

/-- No instruction makes a terminal STATUS Running again. -/
theorem Effect.status_ne_running (h : Effect i s t) (hs : s.status ≠ .running) : t.status ≠ .running := by
  cases h with
  | fault => simp
  | exit => simp
  | write | store | jump | call => exact hs

/-- No instruction clears the record. -/
theorem Effect.isSome_fault (h : Effect i s t) (hs : s.fault.isSome = true) : t.fault.isSome = true := by
  cases h with
  | fault => rfl
  | write | store | jump | call | exit => exact hs

end Sys2Proof.Machine
end

section
/-! SUPPORT. Which fault an instruction raises in Running, said once (60_exceptions.md R342 to R345). -/

namespace Sys2Proof

theorem swapWidthOk_iff_toNat (v : Word) :
    swapWidthOk v = true ↔ v.toNat = 16 ∨ v.toNat = 32 ∨ v.toNat = 64 := by
  simp [swapWidthOk, BitVec.toNat_eq, or_assoc]

theorem Instr.writesDst_iff (i : Instr) : i.writesDst = true ↔ i.format = .aluK ∨ i.format = .aluX ∨ i.format = .aluU ∨
    i.format = .swap ∨ i.format = .lddw ∨ i.format = .ldx := by
  cases h : i.format <;> simp [Instr.writesDst, h]

/-- Of the instructions that write a register only a byte swap can have no operation, by its width. -/
theorem Instr.unsupported_eq_false_iff_of_writesDst {i : Instr} (hs : List HelperId) (hw : i.writesDst = true) :
    i.unsupported hs = false ↔
      (i.format = .swap → i.imm64.toNat = 16 ∨ i.imm64.toNat = 32 ∨ i.imm64.toNat = 64) := by
  rw [← swapWidthOk_iff_toNat]
  rcases i.writesDst_iff.1 hw with h | h | h | h | h | h <;> simp [Instr.unsupported, h]

end Sys2Proof

namespace Sys2Proof.Claims

open Sys2Proof.Machine

variable {i : Instr} {s : State} {base : RegId} {n : Nat}

theorem isSome_access_iff (i : Instr) :
    (access i).isSome = true ↔ i.format = .ldx ∨ i.format = .st ∨ i.format = .stx := by
  have h : (access i).isSome = decide (i.format = .ldx ∨ i.format = .st ∨ i.format = .stx) := by cases i <;> rfl
  rw [h, decide_eq_true_iff]

theorem accessInside_of_eq_none (h : access i = none) : AccessInside i s := fun _ _ h' => by simp [h] at h'

theorem accessInside_iff (h : access i = some (base, n)) : AccessInside i s ↔ Inside (ea s base i.fields) n := by
  simp [AccessInside, h]

theorem not_accessInside_iff : ¬AccessInside i s ↔ ∃ base n, access i = some (base, n) ∧ ¬Inside (ea s base i.fields) n := by
  simp only [AccessInside, not_forall, exists_prop]

/-- What has no operation makes no access. -/
theorem accessInside_of_unsupported {hs : List HelperId} (h : i.unsupported hs = true) : AccessInside i s := by
  refine accessInside_of_eq_none (Option.not_isSome_iff_eq_none.1 fun hacc => ?_)
  rcases (isSome_access_iff i).1 hacc with hf | hf | hf <;> simp [Instr.unsupported, hf] at h

end Sys2Proof.Claims

namespace Sys2Proof.Machine

open Sys2Proof.Claims

/-- How a result came about: the instruction ran to its end, or it raised one of its faults, each for its cause. -/
inductive Verdict (i : Instr) (s : State) : Result → Prop
  /-- It did not fault: its access, if any, is in bounds, and it did not write R10. -/
  | completes (t : State) (ht : t.status ≠ .faulted) (hin : AccessInside i s)
      (hdst : i.writesDst = true → i.fields.dst.toNat ≠ 10) : Verdict i s (.next t)
  /-- An id names no register (10_state.md R22, R23). -/
  | invalidRegister (h : 10 < i.fields.dst.toNat ∨ 10 < i.fields.src.toNat) : Verdict i s (raise s .invalidRegister)
  /-- It has no operation (60_exceptions.md R345). -/
  | unsupportedOpcode (h : i.unsupported s.helperIds = true) : Verdict i s (raise s .unsupportedOpcode)
  /-- Its access is not wholly inside the stack (60_exceptions.md R344). -/
  | memoryBoundsFault (h : ¬AccessInside i s) : Verdict i s (raise s .memoryBoundsFault)
  /-- Nothing faulted before the write of R10 (60_exceptions.md R343). -/
  | frameRegisterWriteViolation (hw : i.writesDst = true) (hd : i.fields.dst.toNat = 10)
      (hop : i.unsupported s.helperIds = false) (hin : AccessInside i s) :
      Verdict i s (raise s .frameRegisterWriteViolation)

variable {i : Instr} {s : State}

/-! ## One lemma per shared operation -/

theorem verdict_withReg {j : RegId} {k : Word → Result} (hj : j = i.fields.dst ∨ j = i.fields.src)
    (h : j.toNat ≤ 10 → Verdict i s (k (s.reg j))) : Verdict i s (withReg s j k) := by
  by_cases hle : j.toNat ≤ 10
  · rw [withReg_valid s hle]
    exact h hle
  · rw [withReg_invalid s (not_le.1 hle)]
    refine .invalidRegister ?_
    rcases hj with rfl | rfl
    exacts [.inl (not_le.1 hle), .inr (not_le.1 hle)]

section running
variable (hs : s.status = .running)
include hs

theorem verdict_writeDst (hw : i.writesDst = true) (hop : i.unsupported s.helperIds = false) (hin : AccessInside i s)
    (v : Word) (n : Int) : Verdict i s (writeDst s i.fields.dst v n) := by
  rcases Nat.lt_trichotomy i.fields.dst.toNat 10 with h | h | h
  · rw [writeDst_low s h]
    exact .completes _ (by simp [hs]) hin fun _ => h.ne
  · rw [writeDst_frame s h]
    exact .frameRegisterWriteViolation hw h hop hin
  · rw [writeDst_invalid s h]
    exact .invalidRegister (.inl h)

/-- The write of an ALU instruction, which always has an operation and makes no access. -/
theorem verdict_alu (hf : i.format = .aluK ∨ i.format = .aluX ∨ i.format = .aluU ∨ i.format = .lddw)
    (hacc : access i = none) (v : Word) (n : Int) : Verdict i s (writeDst s i.fields.dst v n) := by
  have hparts : i.writesDst = true ∧ i.unsupported s.helperIds = false := by
    rcases hf with h | h | h | h <;> simp [Instr.writesDst, Instr.unsupported, h]
  exact verdict_writeDst hs hparts.1 hparts.2 (accessInside_of_eq_none hacc) v n

theorem verdict_loadN {n : Nat} (hf : i.format = .ldx) (hacc : access i = some (i.fields.src, n)) :
    Verdict i s (loadN n i.fields s) := by
  by_cases hr : i.fields.src.toNat ≤ 10
  · by_cases hin : Inside (ea s i.fields.src i.fields) n
    · rw [loadN_inside n _ s hr (inBounds_iff.2 hin)]
      exact verdict_writeDst hs (by simp [Instr.writesDst, hf]) (by simp [Instr.unsupported, hf])
        ((accessInside_iff hacc).2 hin) _ _
    · rw [loadN_outside n _ s hr (inBounds_eq_false hin)]
      exact .memoryBoundsFault (mt (accessInside_iff hacc).1 hin)
  · rw [loadN, withReg_invalid s (not_le.1 hr)]
    exact .invalidRegister (.inr (not_le.1 hr))

theorem verdict_storeN {n : Nat} (hf : i.format = .st ∨ i.format = .stx) (hacc : access i = some (i.fields.dst, n))
    (v : Word) : Verdict i s (storeN n v i.fields s) := by
  have hw : i.writesDst = false := by rcases hf with h | h <;> simp [Instr.writesDst, h]
  by_cases hd : i.fields.dst.toNat ≤ 10
  · by_cases hin : Inside (ea s i.fields.dst i.fields) n
    · rw [storeN_inside n v _ s hd (inBounds_iff.2 hin)]
      exact .completes _ (by simp [hs]) ((accessInside_iff hacc).2 hin) (by simp [hw])
    · rw [storeN_outside n v _ s hd (inBounds_eq_false hin)]
      exact .memoryBoundsFault (mt (accessInside_iff hacc).1 hin)
  · rw [storeN_invalid n v s (not_le.1 hd)]
    exact .invalidRegister (.inl (not_le.1 hd))

theorem verdict_jumpIf (hf : i.format = .ja ∨ i.format = .jccK ∨ i.format = .jccX) (hacc : access i = none) (b : Bool) :
    Verdict i s (jumpIf b i.fields s) := by
  have hw : i.writesDst = false := by rcases hf with h | h | h <;> simp [Instr.writesDst, h]
  exact .completes _ (by simp [hs]) (accessInside_of_eq_none hacc) (by simp [hw])

theorem verdict_swapTo (hf : i.format = .swap) (hacc : access i = none) (o : ByteOrder) (n : Int) :
    Verdict i s (swapTo o i.imm64 n i.fields s) := by
  unfold swapTo
  split
  next hok =>
    exact verdict_withReg (.inl rfl) fun _ => verdict_writeDst hs (by simp [Instr.writesDst, hf])
      (by simp [Instr.unsupported, hf, hok]) (accessInside_of_eq_none hacc) _ _
  next hbad => exact .unsupportedOpcode (by simp [Instr.unsupported, hf, hbad])

theorem verdict_execCall (f : Fields) : Verdict (.call f) s (execCall f s) := by
  cases he : s.helpers.lookup f.imm with
  | some e =>
    rw [execCall, he]
    exact .completes _ (by simp [hs]) (accessInside_of_eq_none rfl) nofun
  | none =>
    have hid : f.imm ∉ s.helperIds := fun hmem => by
      obtain ⟨p, hp, hpid⟩ := List.mem_map.1 hmem
      simpa [hpid] using List.lookup_eq_none_iff.1 he p hp
    rw [execCall, he]
    exact .unsupportedOpcode (by simpa [Instr.unsupported, Instr.format, Instr.fields] using hid)

/-- Every instruction completes, or raises a fault for its cause. -/
theorem exec_verdict (i : Instr) : Verdict i s (exec i s) := by
  cases i with
  | add64K f | sub64K f | mul64K f | div64K f | or64K f | and64K f | lsh64K f | rsh64K f | mod64K f | xor64K f
  | arsh64K f | add32K f | sub32K f | mul32K f | div32K f | or32K f | and32K f | lsh32K f | rsh32K f | mod32K f
  | xor32K f | arsh32K f =>
    exact verdict_withReg (.inl rfl) fun _ => verdict_alu hs (.inl rfl) rfl _ _
  | add64X f | sub64X f | mul64X f | div64X f | or64X f | and64X f | lsh64X f | rsh64X f | mod64X f | xor64X f
  | arsh64X f | add32X f | sub32X f | mul32X f | div32X f | or32X f | and32X f | lsh32X f | rsh32X f | mod32X f
  | xor32X f | arsh32X f =>
    exact verdict_withReg (.inl rfl) fun _ => verdict_withReg (.inr rfl) fun _ =>
      verdict_alu hs (.inr (.inl rfl)) rfl _ _
  | mov64K f | mov32K f => exact verdict_alu hs (.inl rfl) rfl _ _
  | mov64X f | mov32X f => exact verdict_withReg (.inr rfl) fun _ => verdict_alu hs (.inr (.inl rfl)) rfl _ _
  | neg64 f | neg32 f =>
    exact verdict_withReg (.inl rfl) fun _ => verdict_alu hs (.inr (.inr (.inl rfl))) rfl _ _
  | lddw f c => exact verdict_alu hs (.inr (.inr (.inr rfl))) rfl _ _
  | le f c | be f c => exact verdict_swapTo hs rfl rfl _ _
  | ldxw f | ldxh f | ldxb f | ldxdw f => exact verdict_loadN hs rfl rfl
  | stw f | sth f | stb f | stdw f => exact verdict_storeN hs (.inl rfl) rfl _
  | stxw f | stxh f | stxb f | stxdw f =>
    exact verdict_withReg (.inr rfl) fun _ => verdict_storeN hs (.inr rfl) rfl _
  | ldabsw f | ldabsh f | ldabsb f | ldindw f | ldindh f | ldindb f | xaddw f | xadddw f =>
    exact .unsupportedOpcode rfl
  | ja f => exact verdict_jumpIf hs (.inl rfl) rfl true
  | jeqK f | jgtK f | jgeK f | jsetK f | jneK f | jsgtK f | jsgeK f | jltK f | jleK f | jsltK f | jsleK f
  | jeq32K f | jgt32K f | jge32K f | jset32K f | jne32K f | jsgt32K f | jsge32K f | jlt32K f | jle32K f | jslt32K f
  | jsle32K f => exact verdict_withReg (.inl rfl) fun _ => verdict_jumpIf hs (.inr (.inl rfl)) rfl _
  | jeqX f | jgtX f | jgeX f | jsetX f | jneX f | jsgtX f | jsgeX f | jltX f | jleX f | jsltX f | jsleX f
  | jeq32X f | jgt32X f | jge32X f | jset32X f | jne32X f | jsgt32X f | jsge32X f | jlt32X f | jle32X f | jslt32X f
  | jsle32X f =>
    exact verdict_withReg (.inl rfl) fun _ => verdict_withReg (.inr rfl) fun _ =>
      verdict_jumpIf hs (.inr (.inr rfl)) rfl _
  | call f => exact verdict_execCall hs f
  | exit f => exact .completes _ (by simp) (accessInside_of_eq_none rfl) nofun

end running

/-! ## When a fault is the verdict -/

variable {r : Result}

theorem Verdict.eq_raise_frame_iff (h : Verdict i s r) (hr : i.fields.src.toNat ≤ 10) :
    r = raise s .frameRegisterWriteViolation ↔ i.fields.dst.toNat = 10 ∧ i.writesDst = true ∧
      i.unsupported s.helperIds = false ∧ AccessInside i s := by
  cases h with
  | completes t ht _ hdst => exact iff_of_false (next_ne_raise ht) fun ⟨hd, hw, _⟩ => hdst hw hd
  | invalidRegister h => exact iff_of_false (mt raise_inj.1 (by decide)) fun ⟨hd, _⟩ => by omega
  | unsupportedOpcode h => exact iff_of_false (mt raise_inj.1 (by decide)) fun ⟨_, _, hop, _⟩ => by simp [hop] at h
  | memoryBoundsFault h => exact iff_of_false (mt raise_inj.1 (by decide)) fun ⟨_, _, _, hin⟩ => h hin
  | frameRegisterWriteViolation hw hd hop hin => exact iff_of_true rfl ⟨hd, hw, hop, hin⟩

theorem Verdict.eq_raise_bounds_iff (h : Verdict i s r) (hd : i.fields.dst.toNat ≤ 10) (hr : i.fields.src.toNat ≤ 10) :
    r = raise s .memoryBoundsFault ↔ ¬AccessInside i s := by
  cases h with
  | completes t ht hin => exact iff_of_false (next_ne_raise ht) fun hout => hout hin
  | invalidRegister h => omega
  | unsupportedOpcode h =>
    exact iff_of_false (mt raise_inj.1 (by decide)) fun hout => hout (accessInside_of_unsupported h)
  | memoryBoundsFault h => exact iff_of_true rfl h
  | frameRegisterWriteViolation _ _ _ hin => exact iff_of_false (mt raise_inj.1 (by decide)) fun hout => hout hin

end Sys2Proof.Machine
end

section
/-! PROOFS of the statements about faults (60_exceptions.md). -/

namespace Sys2Proof.Proofs

open Sys2Proof.Machine Sys2Proof.Claims

/-- Settles O8: the decoder's three cases stand in `fetchDecode_eq_decodeFault_iff`, and no effect of an instruction is
DecodeFault. -/
theorem decodeFaultInExactlyThreeCases : Obligations.DecodeFaultInExactlyThreeCases :=
  ⟨fun _ => fetchDecode_eq_decodeFault_iff,
    fun _ h => rawBytes_of_decodeFaultAt (fetchDecode_eq_decodeFault_iff.1 h), fun _ _ => exec_ne_raise_decodeFault⟩

/-- Settles O17, by what stands at `pc` for the recorded bytes and by the effects of an instruction for the entry. -/
theorem faultEntryWritesTheRecordOnly : Obligations.FaultEntryWritesTheRecordOnly := by
  refine ⟨fun _ _ => rfl, fun s hfirst => ?_, fun _ hfirst hw => rawBytes_of_narrow hfirst hw,
    fun s hfirst hw => ⟨rawBytes_eq_bytesAt_sixteen hfirst hw, fun hwhole => ?_⟩, fun _ _ => step_fault,
    fun i s t hs h ht => ?_, fun s k n => State.after_of_step_eq_self (step_terminal (by simp [faulted])) n⟩
  · rw [rawBytes_of_firstWordMissing hfirst, fetchBytes_of_firstWordMissing hfirst]
  · rw [rawBytes_eq_bytesAt_sixteen hfirst hw, ← fetchBytes_eq_bytesAt]
    exact (length_fetchBytes_eq_sixteen_iff hfirst).2 hwhole
  · obtain ⟨k, -, rfl⟩ := (effect_of_exec h).takeFault_of_faulted hs ht
    exact ⟨k, h⟩

/-- Settles O18: fault entry keeps all that the statement lists. -/
theorem faultsArePrecise : Obligations.FaultsArePrecise := by
  intro s t hs h ht
  obtain ⟨k, rfl⟩ := takeFault_of_step h hs ht
  exact ⟨rfl, rfl, rfl, rfl, rfl, rfl, rfl, k, rfl⟩

/-- Settles O19: two states that differ in STATUS and FAULT only are alike to every instruction. -/
theorem noReturnFromAFault : Obligations.NoReturnFromAFault := by
  refine ⟨fun s n hs => State.after_of_step_eq_self (step_terminal (by simp [hs])) n, fun i s t h => ?_,
    fun i s t st fl h => ?_, fun _ _ _ => ⟨rfl, rfl⟩⟩
  · have he := effect_of_exec h
    exact ⟨he.status_ne_running, he.isSome_fault⟩
  · have halike : Alike s { s with status := st, fault := fl } := ⟨rfl, rfl, rfl, rfl, rfl, rfl⟩
    obtain ⟨u, t', hu, ht', hkeep, -, hdraws⟩ := exec_alike halike i fun _ => .inl rfl
    obtain rfl : u = t := Host.Outcome.next.inj (hu.symm.trans h)
    exact ⟨t', ht', hkeep.regs, hkeep.stack, hkeep.pc, hdraws rfl⟩

/-- Settles O21: the write of R10 comes after the checks of the operation and of the access. -/
theorem frameRegisterWriteViolationExactly : Obligations.FrameRegisterWriteViolationExactly := by
  refine ⟨fun i s hs hr => ((exec_verdict hs i).eq_raise_frame_iff hr).trans ?_, fun _ => rfl, Instr.writesDst_iff⟩
  refine and_congr_right fun _ => and_congr_right fun hw => and_congr_left fun _ => ?_
  exact Instr.unsupported_eq_false_iff_of_writesDst _ hw

/-- Settles O22: with both ids naming registers only the bounds check comes before the access. -/
theorem memoryBoundsFaultExactly : Obligations.MemoryBoundsFaultExactly :=
  ⟨fun i _ hs hd hr => ((exec_verdict hs i).eq_raise_bounds_iff hd hr).trans not_accessInside_iff, isSome_access_iff,
    fun _ => ⟨rfl, rfl⟩⟩

end Sys2Proof.Proofs
end
